-- ==== Sys2Proof/Word.lean ====
section
/-! DEFINITION. The bit-vector types of the block's values: bytes, 16-bit words and the instruction word's fields. -/

namespace Sys2Proof

/-- An 8-bit unsigned value: a general register, a memory byte, a timer (R21, R29, R31). -/
abbrev Byte := BitVec 8

/-- A 16-bit unsigned value: `I`, `PC`, a stack slot, an instruction word (R25, R26, R27, R70). -/
abbrev Word := BitVec 16

/-- A 4-bit field: a register selector, a row count, a key index (R71, R33). -/
abbrev Nibble := BitVec 4

/-- The 12-bit address field `NNN` (R71). -/
abbrev Addr := BitVec 12

end Sys2Proof
end

