-- ==== Sys2Proof/Config.lean ====
section
/-! DEFINITION. What an implementation fixes (R9, R10) and the free values. Every `opaque` constant below has no body:
nothing in Lean can evaluate it, so a claim proved of the model holds whatever its value is. -/

namespace Sys2Proof

/-- `SPRITE_EDGE`: what a set sprite bit outside 64×32 does (R175, D3). -/
inductive SpriteEdge where
  /-- Raise `SpriteOutOfBounds`. -/
  | fault
  /-- Take the coordinates modulo 64 and 32. -/
  | wrap
  /-- Drop the bit. -/
  | clip
deriving DecidableEq, Repr, Inhabited

/-- `DECODE_5_9`: what the low nibble of 5xyn and 9xyn means (R84, D4). -/
inductive Decode59 where
  /-- Any low nibble decodes. -/
  | ignore
  /-- Only a low nibble of 0 decodes. -/
  | fault
deriving DecidableEq, Repr, Inhabited

namespace Config

/-- `MEM_SIZE` (R9). -/
@[reducible, simp] def memSize : Nat := 4096
/-- `PROG_START` (R9). -/
@[reducible, simp] def progStart : Nat := 0x200
/-- `FONT_BASE` (R9). -/
@[reducible, simp] def fontBase : Nat := 0
/-- `FONT_SIZE` (R9). -/
@[reducible, simp] def fontSize : Nat := 80
/-- `GLYPH_STRIDE` (R9). -/
@[reducible, simp] def glyphStride : Nat := 5
/-- `STACK_DEPTH` (R9). -/
@[reducible, simp] def stackDepth : Nat := 16
/-- `DISP_W` (R9). -/
@[reducible, simp] def dispW : Nat := 64
/-- `DISP_H` (R9). -/
@[reducible, simp] def dispH : Nat := 32
/-- `NKEYS` (R9). -/
@[reducible, simp] def nKeys : Nat := 16
/-- The longest program `load` accepts: `MEM_SIZE - PROG_START` = 3584 bytes (R262). -/
@[reducible, simp] def maxProgram : Nat := 3584

/-- `SHIFT_USES_VY` (R10, D1): whether SHR and SHL shift `V[Y]` (true) or `V[X]`. No value is settled (log entry 1). -/
opaque shiftUsesVy : Bool

/-- `LOADSTORE_INCREMENTS_I` (R10, D2): whether Fx55 and Fx65 advance `I` by `X + 1`. No value is settled (log entry 2). -/
opaque loadStoreIncrementsI : Bool

/-- `SPRITE_EDGE` (R10, D3); the spec's default is `fault` (log entry 3). -/
opaque spriteEdge : SpriteEdge

/-- `DECODE_5_9` (R10, D4); the spec's default is `ignore` (log entry 4). -/
opaque decode59 : Decode59

/-- `FONT` (R10, D22): the 80 caller-supplied glyph bytes, unknown to every proof (log entry 10). -/
opaque font : Vector Byte 80

/-- The random draw `draw8()` (R15, R263, D20): the n-th draw taken since the machine came to be, under no law (log entry 5). -/
opaque draw : Nat → Byte

end Config
end Sys2Proof
end

