-- ==== Sys2Proof/Syntax.lean ====
section
/-! DEFINITION. The 34 instructions, one constructor per row of spec/opcode_table.json in the table's order (R79 to R84,
R88). A constructor carries every field of its word, the ignored ones too (`y` of SHR and SHL, `n` of 5xyn and 9xyn), so
that a word and its instruction determine each other. -/

namespace Sys2Proof

/-- An instruction. `x`, `y` select registers, `n` is a 4-bit, `nn` an 8-bit and `nnn` a 12-bit immediate (R71). -/
inductive Instr where
  /-- 00E0 CLS (R171). -/
  | cls
  /-- 00EE RET (R202). -/
  | ret
  /-- 1nnn JP addr (R203). -/
  | jp (nnn : Addr)
  /-- 2nnn CALL addr (R201). -/
  | call (nnn : Addr)
  /-- 3xnn SE Vx, byte (R205). -/
  | seByte (x : Nibble) (nn : Byte)
  /-- 4xnn SNE Vx, byte (R206). -/
  | sneByte (x : Nibble) (nn : Byte)
  /-- 5xyn SE Vx, Vy (R207); `n` is ignored or must be 0 (R84). -/
  | seReg (x y n : Nibble)
  /-- 6xnn LD Vx, byte (R131). -/
  | ldByte (x : Nibble) (nn : Byte)
  /-- 7xnn ADD Vx, byte (R132). -/
  | addByte (x : Nibble) (nn : Byte)
  /-- 8xy0 LD Vx, Vy (R133). -/
  | ldReg (x y : Nibble)
  /-- 8xy1 OR Vx, Vy (R134). -/
  | orReg (x y : Nibble)
  /-- 8xy2 AND Vx, Vy (R135). -/
  | andReg (x y : Nibble)
  /-- 8xy3 XOR Vx, Vy (R136). -/
  | xorReg (x y : Nibble)
  /-- 8xy4 ADD Vx, Vy (R137). -/
  | addReg (x y : Nibble)
  /-- 8xy5 SUB Vx, Vy (R138). -/
  | sub (x y : Nibble)
  /-- 8xy6 SHR Vx, Vy (R140). -/
  | shr (x y : Nibble)
  /-- 8xy7 SUBN Vx, Vy (R139). -/
  | subn (x y : Nibble)
  /-- 8xyE SHL Vx, Vy (R141). -/
  | shl (x y : Nibble)
  /-- 9xyn SNE Vx, Vy (R208); `n` is ignored or must be 0 (R84). -/
  | sneReg (x y n : Nibble)
  /-- Annn LD I, addr (R181). -/
  | ldI (nnn : Addr)
  /-- Bnnn JP V0, addr (R204). -/
  | jpV0 (nnn : Addr)
  /-- Cxnn RND Vx, byte (R142). -/
  | rnd (x : Nibble) (nn : Byte)
  /-- Dxyn DRW Vx, Vy, nibble (R172). -/
  | drw (x y n : Nibble)
  /-- Ex9E SKP Vx (R221). -/
  | skp (x : Nibble)
  /-- ExA1 SKNP Vx (R222). -/
  | sknp (x : Nibble)
  /-- Fx07 LD Vx, DT (R224). -/
  | ldVxDt (x : Nibble)
  /-- Fx0A LD Vx, K (R223). -/
  | ldVxK (x : Nibble)
  /-- Fx15 LD DT, Vx (R225). -/
  | ldDtVx (x : Nibble)
  /-- Fx18 LD ST, Vx (R226). -/
  | ldStVx (x : Nibble)
  /-- Fx1E ADD I, Vx (R182). -/
  | addI (x : Nibble)
  /-- Fx29 LD F, Vx (R183). -/
  | ldF (x : Nibble)
  /-- Fx33 LD B, Vx (R184). -/
  | ldB (x : Nibble)
  /-- Fx55 LD [I], Vx (R185). -/
  | storeRegs (x : Nibble)
  /-- Fx65 LD Vx, [I] (R186). -/
  | loadRegs (x : Nibble)
deriving DecidableEq, Repr

end Sys2Proof
end

