-- ==== Sys2Proof/WellFormed.lean ====
section
/-! DEFINITION. Which instructions have a word. The fields' types already bound them (R71); the one check is the low
nibble of 5xyn and 9xyn under `DECODE_5_9` (R84). -/

namespace Sys2Proof

/-- Whether a low nibble `n` of classes 5 and 9 is legal under `mode` (R84). -/
def lowNibbleOk (mode : Decode59) (n : Nibble) : Bool := n == 0 || mode == .ignore

/-- An instruction is well formed under `mode` when it has a legal word (R78, R84). -/
def WellFormed (mode : Decode59) : Instr → Bool
  | .seReg _ _ n => lowNibbleOk mode n
  | .sneReg _ _ n => lowNibbleOk mode n
  | .cls | .ret | .jp _ | .call _ | .seByte _ _ | .sneByte _ _ | .ldByte _ _ | .addByte _ _ | .ldReg _ _
  | .orReg _ _ | .andReg _ _ | .xorReg _ _ | .addReg _ _ | .sub _ _ | .shr _ _ | .subn _ _ | .shl _ _
  | .ldI _ | .jpV0 _ | .rnd _ _ | .drw _ _ _ | .skp _ | .sknp _ | .ldVxDt _ | .ldVxK _ | .ldDtVx _ | .ldStVx _
  | .addI _ | .ldF _ | .ldB _ | .storeRegs _ | .loadRegs _ => true

end Sys2Proof
end

