-- ==== Sys2Proof/Decode.lean ====
section
/-! DEFINITION. The decoder, total on any bytes and rejecting by name (R73, R85), and after it the encoder, written from
the same opcode map (R79 to R84). -/

namespace Sys2Proof

/-- The value of `DECODE_5_9` the machine decodes with (R84). -/
def decodeMode : Decode59 := Config.decode59

/-- Bits 15-12, the instruction class (R71). -/
def fieldC (w : Word) : Nibble := w.extractLsb' 12 4
/-- Bits 11-8 (R71). -/
def fieldX (w : Word) : Nibble := w.extractLsb' 8 4
/-- Bits 7-4 (R71). -/
def fieldY (w : Word) : Nibble := w.extractLsb' 4 4
/-- Bits 3-0 (R71). -/
def fieldN (w : Word) : Nibble := w.extractLsb' 0 4
/-- Bits 7-0 (R71). -/
def fieldNN (w : Word) : Byte := w.extractLsb' 0 8
/-- Bits 11-0 (R71). -/
def fieldNNN (w : Word) : Addr := w.extractLsb' 0 12

/-- The big-endian word of two bytes, the first from the lower address (R52). -/
def wordOfBytes (hi lo : Byte) : Word := hi ++ lo
/-- Bits 15-8: the byte stored at the lower address (R52). -/
def highByte (w : Word) : Byte := w.extractLsb' 8 8
/-- Bits 7-0: the byte stored at the higher address (R52). -/
def lowByte (w : Word) : Byte := w.extractLsb' 0 8

/-- Why bytes are not an instruction. Every `unknown…` is the fatal `DecodeFailure` (R85). -/
inductive DecodeError where
  /-- Fewer than two bytes. -/
  | tooShort
  /-- A class-0 word other than 00E0 and 00EE (R80). -/
  | unknownClass0 (w : Word)
  /-- A 5xyn or 9xyn word with `n ≠ 0` under `DECODE_5_9 = Fault` (R84). -/
  | unknownLowNibble (w : Word)
  /-- A class-8 word with an unlisted low nibble (R81). -/
  | unknownClass8 (w : Word)
  /-- A class-E word with an unlisted low byte (R82). -/
  | unknownClassE (w : Word)
  /-- A class-F word with an unlisted low byte (R83). -/
  | unknownClassF (w : Word)
deriving DecidableEq, Repr

/-- Class 0, second level the whole word (R80). -/
def decodeClass0 (w : Word) : Except DecodeError Instr :=
  match w.toNat with
  | 0x00E0 => .ok .cls
  | 0x00EE => .ok .ret
  | _ => .error (.unknownClass0 w)

/-- Class 8, second level `N` (R81). -/
def decodeClass8 (w : Word) : Except DecodeError Instr :=
  match (fieldN w).toNat with
  | 0x0 => .ok (.ldReg (fieldX w) (fieldY w))
  | 0x1 => .ok (.orReg (fieldX w) (fieldY w))
  | 0x2 => .ok (.andReg (fieldX w) (fieldY w))
  | 0x3 => .ok (.xorReg (fieldX w) (fieldY w))
  | 0x4 => .ok (.addReg (fieldX w) (fieldY w))
  | 0x5 => .ok (.sub (fieldX w) (fieldY w))
  | 0x6 => .ok (.shr (fieldX w) (fieldY w))
  | 0x7 => .ok (.subn (fieldX w) (fieldY w))
  | 0xE => .ok (.shl (fieldX w) (fieldY w))
  | _ => .error (.unknownClass8 w)

/-- Class E, second level `NN` (R82). -/
def decodeClassE (w : Word) : Except DecodeError Instr :=
  match (fieldNN w).toNat with
  | 0x9E => .ok (.skp (fieldX w))
  | 0xA1 => .ok (.sknp (fieldX w))
  | _ => .error (.unknownClassE w)

/-- Class F, second level `NN` (R83). -/
def decodeClassF (w : Word) : Except DecodeError Instr :=
  match (fieldNN w).toNat with
  | 0x07 => .ok (.ldVxDt (fieldX w))
  | 0x0A => .ok (.ldVxK (fieldX w))
  | 0x15 => .ok (.ldDtVx (fieldX w))
  | 0x18 => .ok (.ldStVx (fieldX w))
  | 0x1E => .ok (.addI (fieldX w))
  | 0x29 => .ok (.ldF (fieldX w))
  | 0x33 => .ok (.ldB (fieldX w))
  | 0x55 => .ok (.storeRegs (fieldX w))
  | 0x65 => .ok (.loadRegs (fieldX w))
  | _ => .error (.unknownClassF w)

/-- Classes 5 and 9: `i` when the low nibble is legal under `mode` (R84). -/
def decodeLowNibble (mode : Decode59) (w : Word) (i : Instr) : Except DecodeError Instr :=
  if lowNibbleOk mode (fieldN w) then .ok i else .error (.unknownLowNibble w)

/-- The two-level decode of a word (R73, R79). -/
def decodeWord (mode : Decode59) (w : Word) : Except DecodeError Instr :=
  match (fieldC w).toNat with
  | 0x0 => decodeClass0 w
  | 0x1 => .ok (.jp (fieldNNN w))
  | 0x2 => .ok (.call (fieldNNN w))
  | 0x3 => .ok (.seByte (fieldX w) (fieldNN w))
  | 0x4 => .ok (.sneByte (fieldX w) (fieldNN w))
  | 0x5 => decodeLowNibble mode w (.seReg (fieldX w) (fieldY w) (fieldN w))
  | 0x6 => .ok (.ldByte (fieldX w) (fieldNN w))
  | 0x7 => .ok (.addByte (fieldX w) (fieldNN w))
  | 0x8 => decodeClass8 w
  | 0x9 => decodeLowNibble mode w (.sneReg (fieldX w) (fieldY w) (fieldN w))
  | 0xA => .ok (.ldI (fieldNNN w))
  | 0xB => .ok (.jpV0 (fieldNNN w))
  | 0xC => .ok (.rnd (fieldX w) (fieldNN w))
  | 0xD => .ok (.drw (fieldX w) (fieldY w) (fieldN w))
  | 0xE => decodeClassE w
  | _ => decodeClassF w

/-- The instruction at the head of a byte sequence, with the bytes after it (R52, R70). -/
def decode (mode : Decode59) : List Byte → Except DecodeError (Instr × List Byte)
  | hi :: lo :: rest =>
    match decodeWord mode (wordOfBytes hi lo) with
    | .ok i => .ok (i, rest)
    | .error e => .error e
  | _ => .error .tooShort

/-- The two bytes of a table word `w` of `nbits` bits, as they lie in memory: the bits from `nbits` up are 0 (R52). -/
def tableBytes (nbits w : Nat) : List Byte :=
  let word : Word := BitVec.ofNat 16 (w % 2 ^ nbits)
  [highByte word, lowByte word]

/-- What the decoder reads from a table word laid out in memory (`DECODE_5_9` as the machine has it). -/
def decodeTableWord (nbits w : Nat) : Option Instr :=
  match decode decodeMode (tableBytes nbits w) with
  | .ok (i, _) => some i
  | .error _ => none

/-- A word of format XB: class, register, byte (R76). -/
def wordXB (c x : Nibble) (nn : Byte) : Word := c ++ x ++ nn
/-- A word of formats XY and XYN: class, two registers, low nibble (R76). -/
def wordXYN (c x y n : Nibble) : Word := c ++ x ++ y ++ n
/-- A word of format A: class and 12-bit address (R76). -/
def wordA (c : Nibble) (nnn : Addr) : Word := c ++ nnn

/-- The word of an instruction, written from the opcode map (R79 to R84). -/
def encode : Instr → Word
  | .cls => 0x00E0
  | .ret => 0x00EE
  | .jp nnn => wordA 0x1 nnn
  | .call nnn => wordA 0x2 nnn
  | .seByte x nn => wordXB 0x3 x nn
  | .sneByte x nn => wordXB 0x4 x nn
  | .seReg x y n => wordXYN 0x5 x y n
  | .ldByte x nn => wordXB 0x6 x nn
  | .addByte x nn => wordXB 0x7 x nn
  | .ldReg x y => wordXYN 0x8 x y 0x0
  | .orReg x y => wordXYN 0x8 x y 0x1
  | .andReg x y => wordXYN 0x8 x y 0x2
  | .xorReg x y => wordXYN 0x8 x y 0x3
  | .addReg x y => wordXYN 0x8 x y 0x4
  | .sub x y => wordXYN 0x8 x y 0x5
  | .shr x y => wordXYN 0x8 x y 0x6
  | .subn x y => wordXYN 0x8 x y 0x7
  | .shl x y => wordXYN 0x8 x y 0xE
  | .sneReg x y n => wordXYN 0x9 x y n
  | .ldI nnn => wordA 0xA nnn
  | .jpV0 nnn => wordA 0xB nnn
  | .rnd x nn => wordXB 0xC x nn
  | .drw x y n => wordXYN 0xD x y n
  | .skp x => wordXB 0xE x 0x9E
  | .sknp x => wordXB 0xE x 0xA1
  | .ldVxDt x => wordXB 0xF x 0x07
  | .ldVxK x => wordXB 0xF x 0x0A
  | .ldDtVx x => wordXB 0xF x 0x15
  | .ldStVx x => wordXB 0xF x 0x18
  | .addI x => wordXB 0xF x 0x1E
  | .ldF x => wordXB 0xF x 0x29
  | .ldB x => wordXB 0xF x 0x33
  | .storeRegs x => wordXB 0xF x 0x55
  | .loadRegs x => wordXB 0xF x 0x65

/-- The two bytes of an instruction as they lie in memory (R52). -/
def encodeBytes (i : Instr) : List Byte := [highByte (encode i), lowByte (encode i)]

end Sys2Proof
end

