-- ==== Sys2Proof/Machine/State.lean ====
section
/-! DEFINITION. The machine's state as plain data (10_state.md), its stops and its state right after reset (R40, R270). -/

namespace Sys2Proof.Machine

/-- The cause of a fatal condition, `FAULT.cause` (R250). -/
inductive Cause where
  /-- Code 0: no fatal condition since reset. -/
  | none
  /-- Code 1 (R241). -/
  | decodeFailure
  /-- Code 2 (R244). -/
  | stackOverflow
  /-- Code 3 (R245). -/
  | stackUnderflow
  /-- Code 4 (R242). -/
  | fetchOutOfRange
  /-- Code 5 (R243). -/
  | dataOutOfRange
  /-- Code 6 (R246). -/
  | spriteOutOfBounds
  /-- Code 7 (R247). -/
  | keyIndexOutOfRange
  /-- Code 8 (R248). -/
  | fontDigitOutOfRange
deriving DecidableEq, Repr

/-- The fault record `FAULT` (R250). -/
structure FaultRecord where
  /-- The cause, NONE after reset. -/
  cause : Cause
  /-- The address of the faulting instruction. -/
  pc : Word
  /-- The fetched word, 0 for `FetchOutOfRange`. -/
  word : Word
  /-- What R241 to R248 say of each cause. -/
  info : Word
deriving DecidableEq, Repr

/-- The host's events (R264, R265). The random draw of a cycle is `Config.draw`, not part of the event. -/
inductive HostEvent where
  /-- `reset` (R270). -/
  | reset
  /-- `load(bytes)` (R262). -/
  | load (bytes : List Byte)
  /-- `cycle` with the key inputs `KEYS` the host supplies for it (R74, R259). -/
  | cycle (keys : BitVec 16)
  /-- `tick` (R256). -/
  | tick
  /-- `key_press(k)` (R260). -/
  | keyPress (k : Nibble)
deriving DecidableEq, Repr

/-- Where the boot order of R274 stands. -/
inductive Phase where
  /-- Before the first reset: the state is unspecified and only reset is accepted (R274). -/
  | beforeReset
  /-- After a reset, before a load and before the first cycle: `load` is accepted (R262). -/
  | loadOpen
  /-- After the load or the first cycle: `load` is not accepted until the next reset (R262, R265). -/
  | loadClosed
deriving DecidableEq, Repr

/-- The state of the block (R20), the key inputs (R32) and the model's own bookkeeping of the host's side. -/
structure State where
  /-- `MEM` (R29): the bytes that differ from their reset contents, addresses strictly rising. -/
  mem : List Host.Cell
  /-- `V[0..15]` (R21); `V[15]` is VF (R22). -/
  v : Vector (BitVec 8) 16
  /-- `I` (R25). -/
  ireg : BitVec 16
  /-- `PC` (R26). -/
  pc : BitVec 16
  /-- `SP`, the call depth 0 to 16 (R28, R36). -/
  sp : BitVec 5
  /-- `STACK[1..16]` (R27): slot `k` is entry `k - 1`. -/
  stack : Vector (BitVec 16) 16
  /-- `FB` (R30): bit `x` of entry `y` is the pixel `FB[y][x]`. -/
  fb : Vector (BitVec 64) 32
  /-- `DT` (R31). -/
  dt : BitVec 8
  /-- `ST` (R31). -/
  st : BitVec 8
  /-- `WAITING` (R33). -/
  waiting : Bool
  /-- `WAIT_REG` (R33). -/
  waitReg : BitVec 4
  /-- `HALTED` (R34). -/
  halted : Bool
  /-- `FAULT` (R250). -/
  fault : FaultRecord
  /-- Output `REDRAW` (R35). -/
  redraw : Bool
  /-- Output `CLEAR` (R35). -/
  clear : Bool
  /-- Output `WAIT_OUT` (R35). -/
  waitOut : Bool
  /-- Input `KEYS` (R32): bit `k` is key `k` down, as the host last supplied it. -/
  keys : BitVec 16
  /-- The model's own: how many random draws were taken (R263). -/
  draws : Nat
  /-- The model's own: where the boot order stands (R274). -/
  phase : Phase
  /-- The model's own: the host's coming events, oldest first (R264). -/
  pending : List HostEvent
deriving DecidableEq, Repr

/-- Why a step stops. Each is a case to which the spec gives no step; all are safe: the model stops where the spec's host
contract forbids going on. -/
inductive Fault where
  /-- Raised by a step while `HALTED = 1` whose event is not reset (R252). Safe. -/
  | halted
  /-- Raised by a cycle while `WAITING = 1` (R279). Safe. -/
  | keyWait
  /-- Raised by a `load` that is too long, or not the first after a reset, or after the first cycle (R262, R265). Safe. -/
  | loadNotAccepted
  /-- Raised by a step before the first reset whose event is not reset (R274). Safe. -/
  | notReset
  /-- Raised by CALL and RET in a state whose `SP` is 17 to 31, which never occurs (R36). Safe. -/
  | badStackDepth
deriving DecidableEq, Repr

/-- Why an instruction has no meaning in the model. -/
inductive Refusal where
  /-- Raised by an arm of `exec` whose instruction has no meaning yet. Safe. No arm raises it in this model. -/
  | notModelled (mnemonic : String)
deriving DecidableEq, Repr

/-- The machine right after the reset event (R40, R270): nothing listed in memory, so every byte reads as its reset
contents. `keys`, `draws` and `pending` are log entries 5, 6 and 7. -/
def State.reset : State where
  mem := []
  v := Vector.replicate 16 0
  ireg := 0
  pc := 0x200
  sp := 0
  stack := Vector.replicate 16 0
  fb := Vector.replicate 32 0
  dt := 0
  st := 0
  waiting := false
  waitReg := 0
  halted := false
  fault := { cause := .none, pc := 0, word := 0, info := 0 }
  redraw := false
  clear := false
  waitOut := false
  keys := 0
  draws := 0
  phase := .loadOpen
  pending := []

end Sys2Proof.Machine
end

