-- ==== Sys2Proof/Machine/Ops.lean ====
section
/-! DEFINITION. The named operations over memory, registers, the program counter and the call stack, and taking a fatal
condition (R249) with the one way out of it, reset (R253). -/

namespace Sys2Proof.Machine

/-- What an instruction or a step answers. -/
abbrev Result := Host.Outcome State Fault Refusal

/-! Memory (R29, R50 to R65). -/

/-- Memory as held in State. -/
abbrev Memory := List Host.Cell

/-- The FONT byte at offset `k` (R271). -/
def fontByte (k : Nat) (h : k < 80) : Byte := Config.font[k]

/-- What an unlisted address reads as, its reset contents: FONT at `FONT_BASE`, 0 elsewhere (R40, R57, R271). -/
def resetByte (a : Nat) : Byte :=
  if h : a < 80 then fontByte a h else 0

/-- Whether an address exists: 0x000 to 0xFFF (R56). -/
def inMemory (a : Nat) : Bool := decide (a ≤ 0xFFF)

/-- The byte at an address (R58). -/
def Memory.read : Memory → Nat → Byte
  | [], a => resetByte a
  | (b, u) :: m, a => if a = b then u else Memory.read m a

/-- Put an entry in front, unless it is what its address reads as anyway. -/
def Memory.listed (a : Nat) (u : Byte) (m : Memory) : Memory :=
  if u = resetByte a then m else (a, u) :: m

/-- Write one byte, keeping the canonical form. -/
def Memory.write : Memory → Nat → Byte → Memory
  | [], a, u => Memory.listed a u []
  | (b, t) :: m, a, u =>
    if a < b then Memory.listed a u ((b, t) :: m)
    else if a = b then Memory.listed a u m
    else (b, t) :: Memory.write m a u

/-- Every listed address is at least `lo` and in memory, addresses rise strictly, and no entry is what its address reads
as unlisted. -/
def Memory.wfFrom : Nat → Memory → Bool
  | _, [] => true
  | lo, (a, u) :: m => decide (lo ≤ a) && inMemory a && decide (u ≠ resetByte a) && Memory.wfFrom (a + 1) m

/-- The canonical form of memory: equal memories are equal lists. -/
def Memory.wf (m : Memory) : Bool := Memory.wfFrom 0 m

/-- Write bytes at ascending addresses from `a` (R60). -/
def Memory.writeBytes : Memory → Nat → List Byte → Memory
  | m, _, [] => m
  | m, a, u :: us => Memory.writeBytes (Memory.write m a u) (a + 1) us

/-- The `n` bytes from address `a` on. -/
def Memory.readBytes (m : Memory) : Nat → Nat → List Byte
  | _, 0 => []
  | a, n + 1 => Memory.read m a :: Memory.readBytes m (a + 1) n

/-- The first of the `n` addresses from `a` on that lies beyond 0xFFF, if any (R56, R243). -/
def firstOutOfRange : Nat → Nat → Option Nat
  | _, 0 => none
  | a, n + 1 => if inMemory a then firstOutOfRange (a + 1) n else some a

/-- The byte of memory at an address, as the machine sees it. -/
def State.byteAt (s : State) (a : Nat) : Byte := Memory.read s.mem a

/-- The word at `PC`, big-endian (R52, R72). -/
def State.fetchedWord (s : State) : Word := wordOfBytes (s.byteAt s.pc.toNat) (s.byteAt (s.pc.toNat + 1))

/-- Fetch: the word at `PC`, or nothing when `PC + 1 > 0xFFF` (R72). -/
def State.fetch (s : State) : Option Word :=
  if inMemory (s.pc.toNat + 1) then some s.fetchedWord else none

/-! Registers (R21, R25). -/

/-- `V[x]` (R12). -/
def State.reg (s : State) (x : Nibble) : Byte := s.v[x.toNat]'x.isLt

/-- `V[x] <- b` (R12). -/
def State.setReg (s : State) (x : Nibble) (b : Byte) : State := { s with v := s.v.set x.toNat b x.isLt }

/-- `VF <- c ? 1 : 0` (R37). -/
def State.setFlag (s : State) (c : Bool) : State := s.setReg 15 (if c then 1 else 0)

/-- `I <- w` (R25). -/
def State.setI (s : State) (w : Word) : State := { s with ireg := w }

/-- Replace memory. -/
def State.setMem (s : State) (m : Memory) : State := { s with mem := m }

/-- Replace the register file. -/
def State.setRegs (s : State) (v : Vector (BitVec 8) 16) : State := { s with v := v }

/-- Replace the framebuffer (R30). -/
def State.setFb (s : State) (fb : Vector (BitVec 64) 32) : State := { s with fb := fb }

/-- `REDRAW` and `CLEAR` (R35). -/
def State.setOutputs (s : State) (redraw clear : Bool) : State := { s with redraw := redraw, clear := clear }

/-- `DT` and `ST` (R31). -/
def State.setTimers (s : State) (dt st : Byte) : State := { s with dt := dt, st := st }

/-- Start the key wait for `V[x]` (R33, R223). -/
def State.startWait (s : State) (x : Nibble) : State := { s with waiting := true, waitReg := x }

/-- Count one random draw (R263). -/
def State.countDraw (s : State) : State := { s with draws := s.draws + 1 }

/-- The key inputs the host supplies (R32). -/
def State.setKeys (s : State) (keys : BitVec 16) : State := { s with keys := keys }

/-- The host's coming events (R264). -/
def State.setPending (s : State) (es : List HostEvent) : State := { s with pending := es }

/-! The program counter (R26, R75, R209). -/

/-- `PC <- target` (R15). -/
def State.setPc (s : State) (target : Word) : State := { s with pc := target }

/-- `pc_next = (pc_old + 2) mod 2^16` (R15). -/
def State.pcNext (s : State) : Word := s.pc + 2

/-- The default advance (R75). -/
def State.advance (s : State) : State := s.setPc s.pcNext

/-- A conditional skip: past the following word when `c` holds (R209). -/
def State.skipIf (s : State) (c : Bool) : State := s.setPc (if c then s.pcNext + 2 else s.pcNext)

/-! The call stack (R27, R28). -/

/-- `STACK[k]`, `k` from 1 to 16 (R27). -/
def State.stackSlot (s : State) (k : Nat) : Word := s.stack[k - 1]?.getD 0

/-- `SP <- SP + 1; STACK[SP] <- w`, for a depth below 16 (R201). -/
def State.push (s : State) (w : Word) : State :=
  { s with sp := s.sp + 1, stack := s.stack.setIfInBounds s.sp.toNat w }

/-- `SP <- SP - 1` (R202). -/
def State.pop (s : State) : State := { s with sp := s.sp - 1 }

/-! Fatal conditions (R240 to R253). -/

/-- Take a fatal condition: the state before the cycle, with `REDRAW = CLEAR = 0`, `HALTED = 1` and the fault record
written (R249, R250). `s` is the state before any write of the cycle. -/
def State.takeFatal (s : State) (cause : Cause) (word info : Word) : State :=
  { s with
    halted := true
    fault := { cause := cause, pc := s.pc, word := word, info := info }
    redraw := false
    clear := false }

/-- An instruction raises: the word recorded is the one fetched at `pc_old`, and `info` is stored mod 2^16 (R13, R250). -/
def raise (cause : Cause) (info : Nat) (s : State) : Result :=
  .next (s.takeFatal cause s.fetchedWord (BitVec.ofNat 16 info))

/-- The code of a cause in the record (R250). -/
def Cause.code : Cause → BitVec 4
  | .none => 0
  | .decodeFailure => 1
  | .stackOverflow => 2
  | .stackUnderflow => 3
  | .fetchOutOfRange => 4
  | .dataOutOfRange => 5
  | .spriteOutOfBounds => 6
  | .keyIndexOutOfRange => 7
  | .fontDigitOutOfRange => 8

/-- The reset event, the only way out of `HALTED` (R252, R253, R270). The host's side is not reset: the key inputs, the
draws taken so far and the events still to come. -/
def State.hostReset (s : State) : State :=
  { State.reset with keys := s.keys, draws := s.draws, pending := s.pending }

/-! Pixels (R30). -/

/-- `FB[y][x]`; false outside the grid. -/
def State.pixel (s : State) (x y : Nat) : Bool := (s.fb[y]?.getD 0).getLsbD x

/-- `SOUND`: on while `ST ≠ 0` (R258). -/
def State.sound (s : State) : Bool := decide (s.st ≠ 0)

/-! What the host reads (R261, R265). A read is a function of the state, so it has no effect on the block. -/

/-- `FB` as the host reads it: 2048 bytes of 0 or 1, row-major, pixel `(x, y)` at element `y * 64 + x` (R30, R261). -/
def State.frameBytes (s : State) : Vector Byte 2048 := Vector.ofFn fun k => if s.pixel (k % 64) (k / 64) then 1 else 0

/-- The display read and the fault read of the host (R261, R265). -/
structure HostView where
  /-- `FB`, row-major. -/
  frame : Vector Byte 2048
  /-- Output `REDRAW`. -/
  redraw : Bool
  /-- Output `CLEAR`. -/
  clear : Bool
  /-- Output `WAIT_OUT`. -/
  waitOut : Bool
  /-- Output `SOUND`. -/
  sound : Bool
  /-- `HALTED`. -/
  halted : Bool
  /-- `FAULT`. -/
  fault : FaultRecord
deriving DecidableEq, Repr

/-- What the host may read of a state between two events (R261, R265). -/
def State.hostView (s : State) : HostView where
  frame := s.frameBytes
  redraw := s.redraw
  clear := s.clear
  waitOut := s.waitOut
  sound := s.sound
  halted := s.halted
  fault := s.fault

end Sys2Proof.Machine
end

