-- ==== Sys2Proof/Machine/Operands.lean ====
section
/-! DEFINITION. Operand forms: immediates, the shifted operand, the effective address through `I`, register blocks, decimal
digits, glyph addresses, key inputs and sprite pixels. -/

namespace Sys2Proof.Machine

/-- `zext_16(NNN)` (R77). -/
def zextAddr (nnn : Addr) : Word := nnn.setWidth 16

/-- A register value as a 16-bit number, for `NNN + V[0]` and `I + V[X]` (R204, R182). -/
def zextByte (b : Byte) : Word := b.setWidth 16

/-- The value of `SHIFT_USES_VY` the machine runs with (D1). -/
def shiftUsesVy : Bool := Config.shiftUsesVy

/-- The shifted operand of SHR and SHL: `V[y]` when `usesVy`, else `V[x]` (R140, R141). -/
def State.shiftOperand (s : State) (usesVy : Bool) (x y : Nibble) : Byte := if usesVy then s.reg y else s.reg x

/-- The effective address `zext_17(I) + k`, without wrap (R187). -/
def State.effAddr (s : State) (k : Nat) : Nat := s.ireg.toNat + k

/-- The value of `LOADSTORE_INCREMENTS_I` the machine runs with (D2). -/
def loadStoreIncrementsI : Bool := Config.loadStoreIncrementsI

/-- The optional advance of `I` by `x + 1` after Fx55 and Fx65 (R185, R186). -/
def State.advanceI (s : State) (increments : Bool) (x : Nibble) : State :=
  if increments then s.setI (BitVec.ofNat 16 (s.ireg.toNat + x.toNat + 1)) else s

/-- `V[0]` to `V[x]`, in order (R185). -/
def State.regBlock (s : State) (x : Nibble) : List Byte := s.v.toList.take (x.toNat + 1)

/-- Registers 0 to `n - 1` loaded from memory at `base` on (R186). -/
def loadBlock (m : Memory) (base : Nat) : Nat → Vector (BitVec 8) 16 → Vector (BitVec 8) 16
  | 0, v => v
  | n + 1, v => (loadBlock m base n v).setIfInBounds n (Memory.read m (base + n))

/-- The hundreds, tens and ones digits of a value (R184). -/
def bcdDigits (b : Byte) : List Byte :=
  [BitVec.ofNat 8 (b.toNat / 100), BitVec.ofNat 8 (b.toNat / 10 % 10), BitVec.ofNat 8 (b.toNat % 10)]

/-- The address of glyph `d`: `FONT_BASE + d * 5` (R183, R271). -/
def glyphAddress (d : Nat) : Word := BitVec.ofNat 16 (Config.fontBase + d * Config.glyphStride)

/-- `KEYS[k]` (R32, R259). -/
def State.keyDown (s : State) (k : Nat) : Bool := s.keys.getLsbD k

/-- One bit of a sprite at its unbounded coordinates (R172, R173). -/
structure SpriteBit where
  /-- `V[X] + c`. -/
  px : Nat
  /-- `V[Y] + r`. -/
  py : Nat
  /-- The bit: only a set bit touches the framebuffer (R174). -/
  on : Bool
deriving DecidableEq, Repr

/-- The eight bits of one sprite row at `(x0, y)`, leftmost first: bit 7 is the leftmost pixel (R173). -/
def spriteRow (row : Byte) (x0 y : Nat) : List SpriteBit :=
  [⟨x0, y, row.getLsbD 7⟩, ⟨x0 + 1, y, row.getLsbD 6⟩, ⟨x0 + 2, y, row.getLsbD 5⟩, ⟨x0 + 3, y, row.getLsbD 4⟩,
   ⟨x0 + 4, y, row.getLsbD 3⟩, ⟨x0 + 5, y, row.getLsbD 2⟩, ⟨x0 + 6, y, row.getLsbD 1⟩, ⟨x0 + 7, y, row.getLsbD 0⟩]

/-- All bits of a sprite, rows top down, columns left to right (R172, R246). -/
def spriteBits : List Byte → Nat → Nat → List SpriteBit
  | [], _, _ => []
  | row :: rows, x0, y => spriteRow row x0 y ++ spriteBits rows x0 (y + 1)

/-- Whether coordinates lie outside 64×32 (R175). -/
def outOfBounds (px py : Nat) : Bool := decide (64 ≤ px) || decide (32 ≤ py)

/-- The value of `SPRITE_EDGE` the machine runs with (D3). -/
def spriteEdge : SpriteEdge := Config.spriteEdge

/-- The pixel a set sprite bit at `(px, py)` lands on; none when the bit is dropped (R175). Under `fault` an out-of-bounds
set bit has raised before any pixel is touched, so none is never reached there. -/
def edgePixel (edge : SpriteEdge) (px py : Nat) : Option (Nat × Nat) :=
  if outOfBounds px py then
    match edge with
    | .wrap => some (px % 64, py % 32)
    | .clip => none
    | .fault => none
  else some (px, py)

/-- The first set bit of a sprite that is out of bounds, if any (R246). -/
def firstOffending (bits : List SpriteBit) : Option SpriteBit := bits.find? fun b => outOfBounds b.px b.py && b.on

end Sys2Proof.Machine
end

