-- ==== Sys2Proof/Machine/Flags.lean ====
section
/-! DEFINITION. Every flag computation (R37): carry, no borrow, the bit shifted out, collision. -/

namespace Sys2Proof.Machine

/-- Carry of an 8-bit addition: the exact sum passes 255 (R137, R143). -/
def carryOut (a b : Byte) : Bool := decide (255 < a.toNat + b.toNat)

/-- No borrow of `a - b`: the minuend is at least the subtrahend (R138, R139, R143). -/
def noBorrow (a b : Byte) : Bool := decide (b.toNat ≤ a.toNat)

/-- The bit SHR shifts out: bit 0 before the shift (R140). -/
def shiftedOutRight (b : Byte) : Bool := b.getLsbD 0

/-- The bit SHL shifts out: bit 7 before the shift (R141). -/
def shiftedOutLeft (b : Byte) : Bool := b.getLsbD 7

/-- The framebuffer with pixel `(x, y)` toggled, `x < 64` and `y < 32` (R172). -/
def togglePixel (fb : Vector (BitVec 64) 32) (x y : Nat) : Vector (BitVec 64) 32 :=
  fb.setIfInBounds y (fb[y]?.getD 0 ^^^ BitVec.twoPow 64 x)

/-- A framebuffer and whether a pixel went from 1 to 0 so far. -/
structure Blit where
  /-- The framebuffer. -/
  fb : Vector (BitVec 64) 32
  /-- The collision so far (R174). -/
  collision : Bool
deriving DecidableEq, Repr

/-- XOR one sprite bit onto the framebuffer (R172, R174, R175). -/
def blitBit (edge : SpriteEdge) (d : Blit) (b : SpriteBit) : Blit :=
  if b.on then
    match edgePixel edge b.px b.py with
    | some (x, y) => { fb := togglePixel d.fb x y, collision := d.collision || (d.fb[y]?.getD 0).getLsbD x }
    | none => d
  else d

/-- XOR a whole sprite onto a framebuffer, with the collision flag (R172, R174). -/
def blit (edge : SpriteEdge) (fb : Vector (BitVec 64) 32) (bits : List SpriteBit) : Blit :=
  bits.foldl (blitBit edge) { fb := fb, collision := false }

end Sys2Proof.Machine
end

