-- ==== Sys2Proof/Machine/Alu.lean ====
section
/-! DEFINITION. Register loads, the 8-bit ALU and RND (41_alu.md). -/

namespace Sys2Proof.Machine

/-- Write `V[x]` and advance; VF is written only as the destination (R130). -/
def writeReg (x : Nibble) (b : Byte) (s : State) : Result := .next (s.setReg x b).advance

/-- Write the result to `V[x]`, then the flag to VF, then advance: the flag is written last (R16, R130). -/
def writeRegFlag (x : Nibble) (b : Byte) (flag : Bool) (s : State) : Result := .next ((s.setReg x b).setFlag flag).advance

/-- 6xnn LD Vx, byte (R131). -/
def execLdByte (x : Nibble) (nn : Byte) (s : State) : Result := writeReg x nn s

/-- 7xnn ADD Vx, byte: no flag (R132). -/
def execAddByte (x : Nibble) (nn : Byte) (s : State) : Result := writeReg x (s.reg x + nn) s

/-- 8xy0 LD Vx, Vy (R133). -/
def execLdReg (x y : Nibble) (s : State) : Result := writeReg x (s.reg y) s

/-- 8xy1 OR Vx, Vy: no flag (R134). -/
def execOr (x y : Nibble) (s : State) : Result := writeReg x (s.reg x ||| s.reg y) s

/-- 8xy2 AND Vx, Vy: no flag (R135). -/
def execAnd (x y : Nibble) (s : State) : Result := writeReg x (s.reg x &&& s.reg y) s

/-- 8xy3 XOR Vx, Vy: no flag (R136). -/
def execXor (x y : Nibble) (s : State) : Result := writeReg x (s.reg x ^^^ s.reg y) s

/-- 8xy4 ADD Vx, Vy: VF = carry (R137). -/
def execAddReg (x y : Nibble) (s : State) : Result :=
  writeRegFlag x (s.reg x + s.reg y) (carryOut (s.reg x) (s.reg y)) s

/-- 8xy5 SUB Vx, Vy: `V[x] - V[y]`, VF = no borrow (R138). -/
def execSub (x y : Nibble) (s : State) : Result :=
  writeRegFlag x (s.reg x - s.reg y) (noBorrow (s.reg x) (s.reg y)) s

/-- 8xy7 SUBN Vx, Vy: `V[y] - V[x]`, VF = no borrow (R139). -/
def execSubn (x y : Nibble) (s : State) : Result :=
  writeRegFlag x (s.reg y - s.reg x) (noBorrow (s.reg y) (s.reg x)) s

/-- SHR of an operand: a logical shift by one, VF = bit 0 (R140). -/
def shiftRightTo (x : Nibble) (b : Byte) (s : State) : Result := writeRegFlag x (b >>> 1) (shiftedOutRight b) s

/-- SHL of an operand: a shift by one, VF = bit 7 (R141). -/
def shiftLeftTo (x : Nibble) (b : Byte) (s : State) : Result := writeRegFlag x (b <<< 1) (shiftedOutLeft b) s

/-- 8xy6 SHR Vx, Vy (R140). -/
def execShr (x y : Nibble) (s : State) : Result := shiftRightTo x (s.shiftOperand shiftUsesVy x y) s

/-- 8xyE SHL Vx, Vy (R141). -/
def execShl (x y : Nibble) (s : State) : Result := shiftLeftTo x (s.shiftOperand shiftUsesVy x y) s

/-- RND with the draw `r` as an argument: `V[x] <- r & NN` (R142). -/
def randomTo (x : Nibble) (nn r : Byte) (s : State) : Result := writeReg x (r &&& nn) s.countDraw

/-- Cxnn RND Vx, byte: takes the next free draw (R142, R263). -/
def execRnd (x : Nibble) (nn : Byte) (s : State) : Result := randomTo x nn (Config.draw s.draws) s

end Sys2Proof.Machine
end

