-- ==== Sys2Proof/Machine/ControlFlow.lean ====
section
/-! DEFINITION. Jumps, calls, returns and register skips (44_control_flow.md). -/

namespace Sys2Proof.Machine

/-- 2nnn CALL addr (R201, R244): overflow at depth 16; depths 17 to 31 never occur (R36). -/
def execCall (nnn : Addr) (s : State) : Result :=
  if s.sp.toNat < 16 then .next ((s.push s.pcNext).setPc (zextAddr nnn))
  else if s.sp.toNat = 16 then raise .stackOverflow 16 s
  else .fault .badStackDepth

/-- 00EE RET (R202, R245): underflow at depth 0; depths 17 to 31 never occur (R36). -/
def execRet (s : State) : Result :=
  if s.sp.toNat = 0 then raise .stackUnderflow 0 s
  else if s.sp.toNat ≤ 16 then .next (s.pop.setPc (s.stackSlot s.sp.toNat))
  else .fault .badStackDepth

/-- 1nnn JP addr (R203). -/
def execJp (nnn : Addr) (s : State) : Result := .next (s.setPc (zextAddr nnn))

/-- Bnnn JP V0, addr: the offset register is always `V[0]` (R204, D8). -/
def execJpV0 (nnn : Addr) (s : State) : Result := .next (s.setPc (zextAddr nnn + zextByte (s.reg 0)))

/-- 3xnn SE Vx, byte (R205). -/
def execSeByte (x : Nibble) (nn : Byte) (s : State) : Result := .next (s.skipIf (s.reg x == nn))

/-- 4xnn SNE Vx, byte (R206). -/
def execSneByte (x : Nibble) (nn : Byte) (s : State) : Result := .next (s.skipIf (s.reg x != nn))

/-- 5xyn SE Vx, Vy; the low nibble has no effect (R207, R84). -/
def execSeReg (x y _n : Nibble) (s : State) : Result := .next (s.skipIf (s.reg x == s.reg y))

/-- 9xyn SNE Vx, Vy; the low nibble has no effect (R208, R84). -/
def execSneReg (x y _n : Nibble) (s : State) : Result := .next (s.skipIf (s.reg x != s.reg y))

end Sys2Proof.Machine
end

