-- ==== Sys2Proof/Machine/Display.lean ====
section
/-! DEFINITION. CLS and DRW (42_display.md). -/

namespace Sys2Proof.Machine

/-- 00E0 CLS: every pixel 0, `CLEAR` and `REDRAW` set (R171). -/
def execCls (s : State) : Result :=
  .next ((s.setFb (Vector.replicate 32 0)).setOutputs true true).advance

/-- The sprite bits DRW draws: `n` rows from `I` on at origin `(V[x], V[y])`, read before anything is written (R172). -/
def State.drawBits (s : State) (x y n : Nibble) : List SpriteBit :=
  spriteBits (Memory.readBytes s.mem (s.effAddr 0) n.toNat) (s.reg x).toNat (s.reg y).toNat

/-- The state after a draw that raises nothing: the framebuffer, then VF, then `REDRAW` and the advance (R172, R176). -/
def State.drawn (s : State) (d : Blit) : State :=
  (((s.setFb d.fb).setOutputs true s.clear).setFlag d.collision).advance

/-- Draw sprite bits under an edge behaviour; under `fault` a set bit out of bounds raises (R172, R175, R246). -/
def drawSprite (edge : SpriteEdge) (bits : List SpriteBit) (s : State) : Result :=
  match firstOffending bits with
  | none => .next (s.drawn (blit edge s.fb bits))
  | some b =>
    if edge = .fault then raise .spriteOutOfBounds (b.py * 256 + b.px) s
    else .next (s.drawn (blit edge s.fb bits))

/-- Dxyn DRW under an edge behaviour: all sprite bytes are read, and range-checked, before any pixel (R172, R251). -/
def drawAt (edge : SpriteEdge) (x y n : Nibble) (s : State) : Result :=
  match firstOutOfRange (s.effAddr 0) n.toNat with
  | some a => raise .dataOutOfRange a s
  | none => drawSprite edge (s.drawBits x y n) s

/-- Dxyn DRW Vx, Vy, nibble (R172). -/
def execDrw (x y n : Nibble) (s : State) : Result := drawAt spriteEdge x y n s

end Sys2Proof.Machine
end

