-- ==== Sys2Proof/Machine/KeyTimer.lean ====
section
/-! DEFINITION. Key skips, the key wait and the timers (45_keyboard_timer.md). -/

namespace Sys2Proof.Machine

/-- Skip when the input of key `V[x]` is `down`; an index above 0xF raises (R221, R222, R247). -/
def skipOnKey (down : Bool) (x : Nibble) (s : State) : Result :=
  if 0xF < (s.reg x).toNat then raise .keyIndexOutOfRange (s.reg x).toNat s
  else .next (s.skipIf (s.keyDown (s.reg x).toNat == down))

/-- Ex9E SKP Vx (R221). -/
def execSkp (x : Nibble) (s : State) : Result := skipOnKey true x s

/-- ExA1 SKNP Vx (R222). -/
def execSknp (x : Nibble) (s : State) : Result := skipOnKey false x s

/-- Fx07 LD Vx, DT (R224). -/
def execLdVxDt (x : Nibble) (s : State) : Result := writeReg x s.dt s

/-- Fx0A LD Vx, K: starts the wait; `V[x]` is written by the key press that ends it (R223, R33). -/
def execLdVxK (x : Nibble) (s : State) : Result := .next (s.startWait x).advance

/-- Fx15 LD DT, Vx (R225). -/
def execLdDtVx (x : Nibble) (s : State) : Result := .next (s.setTimers (s.reg x) s.st).advance

/-- Fx18 LD ST, Vx (R226). -/
def execLdStVx (x : Nibble) (s : State) : Result := .next (s.setTimers s.dt (s.reg x)).advance

end Sys2Proof.Machine
end

