-- ==== Sys2Proof/Machine/MemoryIndex.lean ====
section
/-! DEFINITION. The index register and memory transfers (43_memory_index.md). -/

namespace Sys2Proof.Machine

/-- Set `I` and advance. -/
def writeI (w : Word) (s : State) : Result := .next (s.setI w).advance

/-- Check the `n` bytes from `I` on before any write; when one is out of range, raise with the lowest (R180, R243). -/
def checked (n : Nat) (s t : State) : Result :=
  match firstOutOfRange (s.effAddr 0) n with
  | some a => raise .dataOutOfRange a s
  | none => .next t

/-- Annn LD I, addr (R181). -/
def execLdI (nnn : Addr) (s : State) : Result := writeI (zextAddr nnn) s

/-- Fx1E ADD I, Vx: mod 2^16, no flag (R182). -/
def execAddI (x : Nibble) (s : State) : Result := writeI (s.ireg + zextByte (s.reg x)) s

/-- Fx29 LD F, Vx (R183, R248). -/
def execLdF (x : Nibble) (s : State) : Result :=
  if 0xF < (s.reg x).toNat then raise .fontDigitOutOfRange (s.reg x).toNat s
  else writeI (glyphAddress (s.reg x).toNat) s

/-- Fx33 LD B, Vx (R184). -/
def execLdB (x : Nibble) (s : State) : Result :=
  checked 3 s (s.setMem (Memory.writeBytes s.mem (s.effAddr 0) (bcdDigits (s.reg x)))).advance

/-- Fx55 with `LOADSTORE_INCREMENTS_I` as an argument (R185). -/
def storeBlock (increments : Bool) (x : Nibble) (s : State) : Result :=
  checked (x.toNat + 1) s
    ((s.setMem (Memory.writeBytes s.mem (s.effAddr 0) (s.regBlock x))).advanceI increments x).advance

/-- Fx65 with `LOADSTORE_INCREMENTS_I` as an argument (R186). -/
def fillBlock (increments : Bool) (x : Nibble) (s : State) : Result :=
  checked (x.toNat + 1) s
    ((s.setRegs (loadBlock s.mem (s.effAddr 0) (x.toNat + 1) s.v)).advanceI increments x).advance

/-- Fx55 LD [I], Vx (R185). -/
def execStoreRegs (x : Nibble) (s : State) : Result := storeBlock loadStoreIncrementsI x s

/-- Fx65 LD Vx, [I] (R186). -/
def execLoadRegs (x : Nibble) (s : State) : Result := fillBlock loadStoreIncrementsI x s

end Sys2Proof.Machine
end

