-- ==== Sys2Proof/Machine/Events.lean ====
section
/-! DEFINITION. The cycle around an instruction (R74) and the host's events (R264, R265). -/

namespace Sys2Proof.Machine

/-- The start of a cycle: `REDRAW` and `CLEAR` are 0, and a load is no longer accepted (R74, R262). -/
def State.beginCycle (s : State) : State := { s with redraw := false, clear := false, phase := .loadClosed }

/-- `WAIT_OUT <- WAITING` (R74). -/
def State.showWait (s : State) : State := { s with waitOut := s.waiting }

/-- The end of a cycle that raised nothing: `WAIT_OUT <- WAITING`; one that raised keeps `WAIT_OUT` (R74, R249). -/
def State.endCycle (s : State) : State := if s.halted then s else s.showWait

/-- `endCycle` on a next state. -/
def finishCycle : Result → Result
  | .next t => .next t.endCycle
  | .fault f => .fault f
  | .refused r => .refused r

/-- Decode and execute the fetched word; an illegal word raises `DecodeFailure` (R74, R241). -/
def runWord (w : Word) (s : State) : Result :=
  match decodeWord decodeMode w with
  | .ok i => finishCycle (exec i s.beginCycle)
  | .error _ => .next (s.beginCycle.takeFatal .decodeFailure w 0)

/-- The cycle event: no step while `WAITING`; a fetch out of range raises (R74, R242, R279). -/
def cycle (s : State) : Result :=
  if s.waiting then .fault .keyWait
  else
    match s.fetch with
    | some w => runWord w s
    | none => .next (s.beginCycle.takeFatal .fetchOutOfRange 0 s.pc)

/-- One tick: each timer towards 0 (R256). -/
def State.ticked (s : State) : State :=
  s.setTimers (if s.dt = 0 then 0 else s.dt - 1) (if s.st = 0 then 0 else s.st - 1)

/-- Clear the wait, its output too (R260). -/
def State.endWait (s : State) : State := { s with waiting := false, waitOut := false }

/-- A key press: ends a wait, else changes nothing (R260). -/
def State.keyPressed (s : State) (k : Nibble) : State :=
  if s.waiting then (s.setReg s.waitReg (k.setWidth 8)).endWait else s

/-- No further load until the next reset (R262, R265). -/
def State.closeLoad (s : State) : State := { s with phase := .loadClosed }

/-- The program copied verbatim to 0x200 (R262). -/
def State.loaded (s : State) (bytes : List Byte) : State :=
  (s.setMem (Memory.writeBytes s.mem Config.progStart bytes)).closeLoad

/-- The load event: accepted once after reset, before the first cycle, up to 3584 bytes (R262, R265). -/
def loadProgram (bytes : List Byte) (s : State) : Result :=
  if s.phase = .loadOpen ∧ bytes.length ≤ Config.maxProgram then .next (s.loaded bytes) else .fault .loadNotAccepted

/-- Whether the state accepts an event other than reset, and what it stops with if not (R252, R274). -/
def whenRunning (s : State) (r : Result) : Result :=
  if s.phase = .beforeReset then .fault .notReset else if s.halted then .fault .halted else r

/-- One host event (R264, R265). -/
def hostEvent (e : HostEvent) (s : State) : Result :=
  match e with
  | .reset => .next s.hostReset
  | .load bytes => whenRunning s (loadProgram bytes s)
  | .cycle keys => whenRunning s (cycle (s.setKeys keys))
  | .tick => whenRunning s (.next s.ticked)
  | .keyPress k => whenRunning s (.next (s.keyPressed k))

/-- The next event: the oldest one pending, or a cycle with the `KEYS` last supplied (R264, R284). -/
def nextEvent (s : State) : Result :=
  match s.pending with
  | [] => whenRunning s (cycle s)
  | e :: es => hostEvent e (s.setPending es)

/-- Store a table word at the program counter and make the very next step run it: the machine reset, running, not waiting,
with no event pending, and a program counter that cannot be fetched from replaced by the reset one. -/
def State.placeWord (s : State) (nbits w : Nat) : State :=
  let pc := if inMemory (s.pc.toNat + 1) then s.pc else 0x200
  { s with
    pc := pc
    mem := Memory.writeBytes s.mem pc.toNat (tableBytes nbits w)
    waiting := false
    halted := false
    phase := .loadClosed
    pending := [] }

end Sys2Proof.Machine
end

