-- ==== Sys2Proof/Machine/Step.lean ====
section
/-! DEFINITION. One step of the machine. -/

namespace Sys2Proof.Machine

/-- One step: the next event (R264). -/
def step (s : State) : Host.Outcome State Fault Refusal := nextEvent s

/-- `s` with the table word `w` of `nbits` bits stored where `step` fetches next, so that the next step runs it. -/
def State.withFetchWord (s : State) (nbits w : Nat) : State := s.placeWord nbits w

end Sys2Proof.Machine
end

