-- ==== Sys2Proof/Safety.lean ====
section
/-! DEFINITION. The terms claims use: the parts of the state, what a frame leaves unchanged, which instruction may write
what, the sprite's geometry, and the machine's invariants. -/

namespace Sys2Proof.Machine

/-- The parts of the state a frame speaks of (R20, R32, R35 and the model's own fields). -/
inductive Part where
  | mem | v | i | pc | sp | stack | fb | dt | st | waiting | waitReg | halted | fault
  | redraw | clear | waitOut | keys | draws | phase | pending
deriving DecidableEq, Repr

/-- A part has the same content in both states. Memory and registers are compared as they read. -/
def Part.same : Part → State → State → Prop
  | .mem, s, t => ∀ a, t.byteAt a = s.byteAt a
  | .v, s, t => ∀ k, t.reg k = s.reg k
  | .i, s, t => t.ireg = s.ireg
  | .pc, s, t => t.pc = s.pc
  | .sp, s, t => t.sp = s.sp
  | .stack, s, t => ∀ k, 1 ≤ k → k ≤ 16 → t.stackSlot k = s.stackSlot k
  | .fb, s, t => ∀ px py, px < 64 → py < 32 → t.pixel px py = s.pixel px py
  | .dt, s, t => t.dt = s.dt
  | .st, s, t => t.st = s.st
  | .waiting, s, t => t.waiting = s.waiting
  | .waitReg, s, t => t.waitReg = s.waitReg
  | .halted, s, t => t.halted = s.halted
  | .fault, s, t => t.fault = s.fault
  | .redraw, s, t => t.redraw = s.redraw
  | .clear, s, t => t.clear = s.clear
  | .waitOut, s, t => t.waitOut = s.waitOut
  | .keys, s, t => t.keys = s.keys
  | .draws, s, t => t.draws = s.draws
  | .phase, s, t => t.phase = s.phase
  | .pending, s, t => t.pending = s.pending

/-- Every part but the listed ones is unchanged from `s` to `t`. -/
def SameBut (ps : List Part) (s t : State) : Prop := ∀ p, p ∉ ps → p.same s t

/-- What taking a fatal condition writes (R249). -/
def fatalParts : List Part := [.halted, .fault, .redraw, .clear]

/-- `t` is `s` with a fatal condition taken: nothing of the cycle survives but the halt and its record (R249, R250). -/
def Fatal (cause : Cause) (word info : Word) (s t : State) : Prop :=
  t.halted = true ∧ t.fault = { cause := cause, pc := s.pc, word := word, info := info } ∧ t.redraw = false ∧
    t.clear = false ∧ SameBut fatalParts s t

/-- The general registers an instruction may write when it executes: the column "writes V" of R24. LD Vx, K writes its
register only at resolution. -/
def writesReg : Instr → Nibble → Bool
  | .ldByte x _, k | .addByte x _, k | .ldReg x _, k | .orReg x _, k | .andReg x _, k | .xorReg x _, k
  | .rnd x _, k | .ldVxDt x, k => k == x
  | .addReg x _, k | .sub x _, k | .subn x _, k | .shr x _, k | .shl x _, k => k == x || k == 15
  | .drw _ _ _, k => k == 15
  | .loadRegs x, k => decide (k.toNat ≤ x.toNat)
  | .cls, _ | .ret, _ | .jp _, _ | .call _, _ | .seByte _ _, _ | .sneByte _ _, _ | .seReg _ _ _, _
  | .sneReg _ _ _, _ | .ldI _, _ | .jpV0 _, _ | .skp _, _ | .sknp _, _ | .ldVxK _, _ | .ldDtVx _, _ | .ldStVx _, _
  | .addI _, _ | .ldF _, _ | .ldB _, _ | .storeRegs _, _ => false

/-- The parts an instruction may write, a fatal condition it can raise included (R24, R25, R27, R30, R31, R33, R51). -/
def mayWrite : Instr → List Part
  | .cls => [.fb, .clear, .redraw, .pc]
  | .ret => [.sp, .pc] ++ fatalParts
  | .call _ => [.sp, .stack, .pc] ++ fatalParts
  | .jp _ | .jpV0 _ | .seByte _ _ | .sneByte _ _ | .seReg _ _ _ | .sneReg _ _ _ => [.pc]
  | .ldByte _ _ | .addByte _ _ | .ldReg _ _ | .orReg _ _ | .andReg _ _ | .xorReg _ _ | .addReg _ _ | .sub _ _
  | .shr _ _ | .subn _ _ | .shl _ _ | .ldVxDt _ => [.v, .pc]
  | .rnd _ _ => [.v, .draws, .pc]
  | .drw _ _ _ => [.fb, .v, .pc] ++ fatalParts
  | .skp _ | .sknp _ => [.pc] ++ fatalParts
  | .ldVxK _ => [.waiting, .waitReg, .pc]
  | .ldDtVx _ => [.dt, .pc]
  | .ldStVx _ => [.st, .pc]
  | .ldI _ | .addI _ => [.i, .pc]
  | .ldF _ => [.i, .pc] ++ fatalParts
  | .ldB _ => [.mem, .pc] ++ fatalParts
  | .storeRegs _ => [.mem, .i, .pc] ++ fatalParts
  | .loadRegs _ => [.v, .i, .pc] ++ fatalParts

/-- The word `w` is the instruction `i`, whatever `DECODE_5_9` is (R73). -/
def IsWordOf (w : Word) (i : Instr) : Prop := ∀ mode, decodeWord mode w = .ok i

/-- The host's next event is not reset: none is pending, so a cycle comes, or another event is first (R264). -/
def NextIsNotReset (s : State) : Prop := s.pending.head? ≠ some .reset

/-- The host's next event is a cycle: none is pending, or a cycle is first (R264). -/
def NextIsCycle (s : State) : Prop := s.pending = [] ∨ ∃ keys rest, s.pending = .cycle keys :: rest

/-- The host's next event is a cycle, and it executes its instruction from `u`: `s` with the supplied `KEYS`, `REDRAW` and
`CLEAR` 0, loading closed, and the event taken off (R74). -/
def CycleFrom (s u : State) : Prop :=
  (s.pending = [] ∧ u = s.beginCycle) ∨
    ∃ keys rest, s.pending = .cycle keys :: rest ∧ u = ((s.setPending rest).setKeys keys).beginCycle

/-! Sprites (R172 to R175). -/

/-- The bit of sprite row `r` and column `c`: bit `7 - c` of `MEM[I + r]` (R173). -/
def State.spriteBit (s : State) (r c : Nat) : Bool := (s.byteAt (s.ireg.toNat + r)).getLsbD (7 - c)

/-- A set bit at unbounded coordinates `(qx, qy)` lands on pixel `(px, py)` (R175). -/
def LandsOn (edge : SpriteEdge) (qx qy px py : Nat) : Prop :=
  (qx < 64 ∧ qy < 32 ∧ px = qx ∧ py = qy) ∨ (edge = .wrap ∧ px = qx % 64 ∧ py = qy % 32)

/-- The sprite DRW draws from `s` has a set bit that lands on `(px, py)`. -/
def Covers (edge : SpriteEdge) (s : State) (x y n : Nibble) (px py : Nat) : Prop :=
  ∃ r c, r < n.toNat ∧ c < 8 ∧ s.spriteBit r c = true ∧
    LandsOn edge ((s.reg x).toNat + c) ((s.reg y).toNat + r) px py

/-- The set bit of row `r` and column `c` lies outside 64×32 (R175). -/
def OffScreen (s : State) (x y n : Nibble) (r c : Nat) : Prop :=
  r < n.toNat ∧ c < 8 ∧ s.spriteBit r c = true ∧ (64 ≤ (s.reg x).toNat + c ∨ 32 ≤ (s.reg y).toNat + r)

/-- `t` is `s` with the sprite XORed in, VF the collision, `REDRAW` set and the default advance; nothing else changes (R172,
R174, R176). -/
def Drawn (edge : SpriteEdge) (x y n : Nibble) (s t : State) : Prop :=
  (∀ px py, px < 64 → py < 32 → Covers edge s x y n px py → t.pixel px py = !s.pixel px py) ∧
  (∀ px py, px < 64 → py < 32 → ¬Covers edge s x y n px py → t.pixel px py = s.pixel px py) ∧
  ((∃ px py, Covers edge s x y n px py ∧ s.pixel px py = true) → t.reg 15 = 1) ∧
  ((∀ px py, Covers edge s x y n px py → s.pixel px py = false) → t.reg 15 = 0) ∧
  (∀ k, k ≠ 15 → t.reg k = s.reg k) ∧
  t.redraw = true ∧ t.pc = s.pc + 2 ∧ SameBut [.fb, .v, .pc, .redraw] s t

/-- The bytes `[I, I + n)` lie in memory; an empty block always does (R56, R243). -/
def BlockInMemory (s : State) (n : Nat) : Prop := n = 0 ∨ s.ireg.toNat + n ≤ 0x1000

/-- The lowest address of the block `[I, I + n)` beyond 0xFFF, for a block that leaves memory (R243). -/
def State.firstBad (s : State) : Nat := max s.ireg.toNat 0x1000

/-! Invariants. -/

/-- What holds of the machine from reset on: memory is canonical, the call depth is at most 16 (R28), `WAIT_OUT` equals
`WAITING` (R35), `HALTED` is set exactly when a cause is recorded (R34, R250), a halted block is not waiting and shows no
`REDRAW` or `CLEAR` (R249), and with no cause recorded the record is all 0 (R270). -/
def MachineInv (s : State) : Prop :=
  Memory.wf s.mem = true ∧ s.sp.toNat ≤ 16 ∧ s.waitOut = s.waiting ∧
  (s.halted = true ↔ s.fault.cause ≠ .none) ∧
  (s.halted = true → s.waiting = false ∧ s.redraw = false ∧ s.clear = false) ∧
  (s.fault.cause = .none → s.fault.pc = 0 ∧ s.fault.word = 0 ∧ s.fault.info = 0)

/-- No program counter passes 0x10FE and no stacked return address passes 0x1000 (R26). -/
def PcBounded (s : State) : Prop :=
  s.pc.toNat ≤ 0x10FE ∧ ∀ k, 1 ≤ k → k ≤ 16 → (s.stackSlot k).toNat ≤ 0x1000

/-- Until a load or the first cycle, the machine is as reset left it, but for the host's side (R262, R274). -/
def UntouchedUntilBoot (s : State) : Prop :=
  s.phase = .loadOpen → SameBut [.keys, .draws, .pending] State.reset s

/-- Illegal words (R80 to R85), by their fields. -/
def IllegalWord (mode : Decode59) (w : Word) : Prop :=
  (fieldC w = 0x0 ∧ w ≠ 0x00E0 ∧ w ≠ 0x00EE) ∨
  ((fieldC w = 0x5 ∨ fieldC w = 0x9) ∧ fieldN w ≠ 0 ∧ mode = .fault) ∨
  (fieldC w = 0x8 ∧ fieldN w ∈ [0x8, 0x9, 0xA, 0xB, 0xC, 0xD, 0xF]) ∨
  (fieldC w = 0xE ∧ fieldNN w ∉ [0x9E, 0xA1]) ∨
  (fieldC w = 0xF ∧ fieldNN w ∉ [0x07, 0x0A, 0x15, 0x18, 0x1E, 0x29, 0x33, 0x55, 0x65])

end Sys2Proof.Machine
end

