-- ==== Sys2Proof/Certificates/Slice0/Obligations.lean ====
section
/-! DEFINITION. The statements for the provers, from the spec's numbered rules. Each conclusion about an instruction says
which next state `exec` answers, and its frame. `SameBut ps s t` says every part of the state outside `ps` is unchanged,
every byte of memory and every register among them. -/

open Sys2Proof Sys2Proof.Machine

/-! Encoding (30_encoding.md). -/

/-- Words written out from the spec's encodings, two to four for each family, are the instructions they stand for (R79 to
R84). -/
def Obligations.SpecWordsDecode : Prop :=
  IsWordOf 0b0000000011100000 .cls ∧ IsWordOf 0b1101000000010101 (.drw 0 1 5) ∧
  IsWordOf 0b0110101001000010 (.ldByte 0xA 0x42) ∧ IsWordOf 0b1000000100100101 (.sub 1 2) ∧
  IsWordOf 0b1000000100101110 (.shl 1 2) ∧ IsWordOf 0b1100000100001111 (.rnd 1 0x0F) ∧
  IsWordOf 0b1010001011110000 (.ldI 0x2F0) ∧ IsWordOf 0b1111001001100101 (.loadRegs 2) ∧
  IsWordOf 0b0010001100000000 (.call 0x300) ∧ IsWordOf 0b0000000011101110 .ret ∧
  IsWordOf 0b0101000100100000 (.seReg 1 2 0) ∧ IsWordOf 0b1001000100100000 (.sneReg 1 2 0) ∧
  IsWordOf 0b1110000110011110 (.skp 1) ∧ IsWordOf 0b1111010100011000 (.ldStVx 5)

/-- Decoding the word of any well-formed instruction gives it back, under either `DECODE_5_9`: no field is dropped (R71, R79
to R84). -/
def Obligations.DecodeOfEncodeIsIdentity : Prop :=
  ∀ mode i, WellFormed mode i = true → decodeWord mode (encode i) = .ok i

/-- A word that decodes is the word of the instruction it decodes to, which is well formed: each legal word has one row
(R73). -/
def Obligations.EncodeOfDecodeIsIdentity : Prop :=
  ∀ mode w i, decodeWord mode w = .ok i → encode i = w ∧ WellFormed mode i = true

/-- The decoder rejects exactly the illegal words of R80 to R84 (R85). -/
def Obligations.DecoderRejectsExactlyIllegalWords : Prop :=
  ∀ mode w, (∃ e, decodeWord mode w = .error e) ↔ IllegalWord mode w

/-! The cycle and the fatal conditions (30_encoding.md, 60_exceptions.md). -/

/-- A step whose event is a cycle, in a state that runs, fetches the big-endian word at `PC`; when it decodes to `i`, the
step is `exec i` on the state the cycle executes from, and then `WAIT_OUT` becomes `WAITING` unless a fatal condition was
taken (R52, R72, R74; an empty queue read as a cycle is the model's choice, log entry 7). -/
def Obligations.StepRunsDecodedInstruction : Prop :=
  ∀ s i, s.phase ≠ .beforeReset → s.halted = false → s.waiting = false → s.pc.toNat + 1 ≤ 0xFFF →
    decodeWord decodeMode s.fetchedWord = .ok i →
    s.fetchedWord.toNat = (s.byteAt s.pc.toNat).toNat * 256 + (s.byteAt (s.pc.toNat + 1)).toNat ∧
    ∀ u, CycleFrom s u →
      step s = match exec i u with
        | .next t => .next (if t.halted then t else t.showWait)
        | .fault f => .fault f
        | .refused r => .refused r

/-- A fetch beyond 0xFFF takes `FetchOutOfRange`, cause code 4, with word 0 and the PC as info (R242; an
empty queue read as a cycle is the model's choice, log entry 7). -/
def Obligations.FetchBeyondMemoryHalts : Prop :=
  Cause.code .fetchOutOfRange = 4 ∧
  ∀ s u, s.phase ≠ .beforeReset → s.halted = false → s.waiting = false → 0xFFF < s.pc.toNat + 1 → CycleFrom s u →
    ∃ t, step s = .next t ∧ Fatal .fetchOutOfRange 0 s.pc u t

/-- An illegal word takes `DecodeFailure`, cause code 1, with the word and its address recorded (R241; an empty
queue read as a cycle is the model's choice, log entry 7). -/
def Obligations.IllegalWordHalts : Prop :=
  Cause.code .decodeFailure = 1 ∧
  ∀ s u, s.phase ≠ .beforeReset → s.halted = false → s.waiting = false → s.pc.toNat + 1 ≤ 0xFFF →
    IllegalWord decodeMode s.fetchedWord → CycleFrom s u →
    ∃ t, step s = .next t ∧ Fatal .decodeFailure s.fetchedWord 0 u t

/-- A step that ends halted from a state that was not has discarded everything else of its cycle: only the halt, the record
(cause, `pc_old`, the fetched word or 0, info) and `REDRAW = CLEAR = 0` remain, beside the host's side (R249; the
recorded word and `WAIT_OUT` kept are the model's inferences, log entries 12 and 14). -/
def Obligations.FatalConditionsArePrecise : Prop :=
  ∀ s t, s.halted = false → step s = .next t → t.halted = true →
    t.redraw = false ∧ t.clear = false ∧ t.fault.cause ≠ .none ∧ t.fault.pc = s.pc ∧
    (t.fault.cause = .fetchOutOfRange → t.fault.word = 0) ∧
    (t.fault.cause ≠ .fetchOutOfRange → t.fault.word = s.fetchedWord) ∧
    SameBut (fatalParts ++ [.keys, .phase, .pending]) s t

/-- A cycle of a state that runs, with a call depth the machine can have, always answers a next state: no word and no
operand stops the model (R74, R249; an empty queue read as a cycle is the model's choice, log entry 7). -/
def Obligations.RunningCycleAnswersNext : Prop :=
  ∀ s, s.phase ≠ .beforeReset → s.halted = false → s.waiting = false → s.sp.toNat ≤ 16 → NextIsCycle s →
    ∃ t, step s = .next t

/-- Every instruction answers a next state at every call depth the machine can have. -/
def Obligations.EveryInstructionAnswersNext : Prop := ∀ i s, s.sp.toNat ≤ 16 → ∃ t, exec i s = .next t

/-! Host events (60_exceptions.md, 70_reset_and_hazards.md). -/

/-- While `HALTED = 1` no event but reset has a step (R252; an empty queue read as a cycle is the model's choice, log
entry 7). -/
def Obligations.HaltedAcceptsOnlyReset : Prop :=
  ∀ s, s.phase ≠ .beforeReset → s.halted = true → NextIsNotReset s → step s = .fault .halted

/-- While `WAITING = 1` a cycle has no step (R279; an empty queue read as a cycle is the model's choice, log entry 7). -/
def Obligations.CycleWhileWaitingHasNoStep : Prop :=
  ∀ s, s.phase ≠ .beforeReset → s.halted = false → s.waiting = true → NextIsCycle s → step s = .fault .keyWait

/-- Before the first reset no event but reset is accepted (R274; the phase is the model's field, log entry 9,
and so is an empty queue read as a cycle, log entry 7). -/
def Obligations.OnlyResetBeforeFirstReset : Prop :=
  ∀ s, s.phase = .beforeReset → NextIsNotReset s → step s = .fault .notReset

/-- A tick decrements both timers, never below 0, also while waiting, and changes nothing else (R256; that `REDRAW`
and `CLEAR` survive it is the model's inference, log entry 16). -/
def Obligations.TickDecrementsTimers : Prop :=
  ∀ s rest, s.phase ≠ .beforeReset → s.halted = false → s.pending = .tick :: rest →
    ∃ t, step s = .next t ∧ t.dt.toNat = s.dt.toNat - 1 ∧ t.st.toNat = s.st.toNat - 1 ∧ t.pending = rest ∧
      SameBut [.dt, .st, .pending] s t

/-- A key press ends a wait, writing the key's index to `V[WAIT_REG]`; with no wait it changes nothing (R260;
that `REDRAW` and `CLEAR` survive it is the model's inference, log entry 16). -/
def Obligations.KeyPressEndsWait : Prop :=
  ∀ s k rest, s.phase ≠ .beforeReset → s.halted = false → s.pending = .keyPress k :: rest →
    ∃ t, step s = .next t ∧ t.pending = rest ∧
      (s.waiting = true → (t.reg s.waitReg).toNat = k.toNat ∧ (∀ r, r ≠ s.waitReg → t.reg r = s.reg r) ∧
        t.waiting = false ∧ t.waitOut = false ∧ SameBut [.v, .waiting, .waitOut, .pending] s t) ∧
      (s.waiting = false → SameBut [.pending] s t)

/-- A load after reset copies the program to 0x200 on, leaves every other byte alone, and closes loading (R262; that it closes
loading, and that `REDRAW`, `CLEAR` and `WAIT_OUT` survive it, are the model's inferences, log entries 13 and 16). -/
def Obligations.LoadCopiesProgram : Prop :=
  ∀ s bytes rest, s.phase = .loadOpen → s.halted = false → Memory.wf s.mem = true →
    s.pending = .load bytes :: rest → bytes.length ≤ 3584 →
    ∃ t, step s = .next t ∧ (∀ k (h : k < bytes.length), t.byteAt (0x200 + k) = bytes[k]) ∧
      (∀ a, a < 0x200 ∨ 0x200 + bytes.length ≤ a → t.byteAt a = s.byteAt a) ∧ t.phase = .loadClosed ∧
      t.pending = rest ∧ SameBut [.mem, .phase, .pending] s t

/-- A load that is too long, or comes after the load or the first cycle, has no step (R262, R265; that a second load has none
is the model's reading, log entry 13). -/
def Obligations.LateOrLongLoadHasNoStep : Prop :=
  ∀ s bytes rest, s.phase ≠ .beforeReset → s.halted = false → s.pending = .load bytes :: rest →
    (s.phase = .loadClosed ∨ 3584 < bytes.length) → step s = .fault .loadNotAccepted

/-- A reset event is accepted in every state and sets every piece of the block's state to its reset value; the host's side
(the key inputs, the draws taken, the events to come) is the model's own and stays (R270, R272; log entries 5, 6, 7). -/
def Obligations.ResetEventRestoresEverything : Prop :=
  ∀ s rest, s.pending = .reset :: rest →
    ∃ t, step s = .next t ∧ SameBut [.keys, .draws, .pending] State.reset t ∧ t.phase = .loadOpen ∧
      t.keys = s.keys ∧ t.draws = s.draws ∧ t.pending = rest

/-- The state after reset: FONT at 0x000 to 0x04F, memory, registers, stack, framebuffer, timers, key wait, fault state and
outputs 0, the PC at 0x200 (R40, R270). -/
def Obligations.ResetValues : Prop :=
  (∀ a (h : a < 80), State.reset.byteAt a = Config.font[a]) ∧
  (∀ a, 0x50 ≤ a → a ≤ 0xFFF → State.reset.byteAt a = 0) ∧
  (∀ k, State.reset.reg k = 0) ∧ State.reset.ireg = 0 ∧ State.reset.pc = 0x200 ∧ State.reset.sp = 0 ∧
  (∀ k, 1 ≤ k → k ≤ 16 → State.reset.stackSlot k = 0) ∧
  (∀ px py, px < 64 → py < 32 → State.reset.pixel px py = false) ∧
  State.reset.dt = 0 ∧ State.reset.st = 0 ∧ State.reset.waiting = false ∧ State.reset.waitReg = 0 ∧
  State.reset.halted = false ∧ State.reset.fault = { cause := .none, pc := 0, word := 0, info := 0 } ∧
  State.reset.redraw = false ∧ State.reset.clear = false ∧ State.reset.waitOut = false

/-! Invariants and whole-machine rules. -/

/-- The invariants hold right after reset. -/
def Obligations.ResetMeetsInvariants : Prop := MachineInv State.reset ∧ PcBounded State.reset ∧ UntouchedUntilBoot State.reset

/-- Every step keeps `MachineInv`: canonical memory, call depth at most 16, `WAIT_OUT` equal to `WAITING`, a halt exactly when a
cause is recorded, a halted block neither waiting nor showing outputs (R28, R34, R35, R249; `WAIT_OUT` kept in a cycle that
raises is the model's inference, log entry 14). -/
def Obligations.StepKeepsMachineInvariant : Prop := ∀ s t, MachineInv s → step s = .next t → MachineInv t

/-- Every step keeps the PC at most 0x10FE and every stacked address at most 0x1000, so no PC wraps (R26). -/
def Obligations.StepKeepsPcBounded : Prop := ∀ s t, PcBounded s → step s = .next t → PcBounded t

/-- Until the load or the first cycle after a reset, every step keeps the block as reset left it (R274; the load window is
the model's field, log entry 9; that outputs survive a tick or a key press is the model's inference, log entry 16). -/
def Obligations.StepKeepsUntouchedUntilBoot : Prop :=
  ∀ s t, UntouchedUntilBoot s → step s = .next t → UntouchedUntilBoot t

/-- An instruction writes only the parts of the state named for it: FB only by CLS and DRW, MEM only by Fx33 and Fx55, the
stack only by CALL, `DT` only by Fx15, `ST` only by Fx18, `I` only by its five instructions (R25, R27, R30, R31, R51). -/
def Obligations.InstructionsWriteOnlyNamedParts : Prop := ∀ i s t, exec i s = .next t → SameBut (mayWrite i) s t

/-- An instruction writes only the general registers of its row of R24, VF among them only as its flag or destination
(R24, R37). -/
def Obligations.InstructionsWriteOnlyNamedRegisters : Prop :=
  ∀ i s t k, exec i s = .next t → writesReg i k = false → t.reg k = s.reg k

/-! ALU, register loads and random (41_alu.md). -/

/-- 6xnn loads the byte into `V[x]` and changes nothing else but the PC (R131). -/
def Obligations.LoadByteResult : Prop :=
  ∀ x nn s, IsWordOf (0x6#4 ++ x ++ nn) (.ldByte x nn) ∧
    ∃ t, exec (.ldByte x nn) s = .next t ∧ t.reg x = nn ∧ (∀ k, k ≠ x → t.reg k = s.reg k) ∧ t.pc = s.pc + 2 ∧
      SameBut [.v, .pc] s t

/-- 7xnn adds the byte mod 256; VF is not written as a flag (R132). -/
def Obligations.AddByteResult : Prop :=
  ∀ x nn s, IsWordOf (0x7#4 ++ x ++ nn) (.addByte x nn) ∧
    ∃ t, exec (.addByte x nn) s = .next t ∧ (t.reg x).toNat = ((s.reg x).toNat + nn.toNat) % 256 ∧
      (∀ k, k ≠ x → t.reg k = s.reg k) ∧ t.pc = s.pc + 2 ∧ SameBut [.v, .pc] s t

/-- 8xy0 copies `V[y]` to `V[x]` (R133). -/
def Obligations.LoadRegisterResult : Prop :=
  ∀ x y s, IsWordOf (0x8#4 ++ x ++ y ++ 0x0#4) (.ldReg x y) ∧
    ∃ t, exec (.ldReg x y) s = .next t ∧ t.reg x = s.reg y ∧ (∀ k, k ≠ x → t.reg k = s.reg k) ∧ t.pc = s.pc + 2 ∧
      SameBut [.v, .pc] s t

/-- 8xy1, 8xy2, 8xy3 are the bitwise OR, AND and XOR, bit by bit; VF is not written as a flag (R134, R135, R136). -/
def Obligations.LogicResults : Prop :=
  ∀ x y s,
    (IsWordOf (0x8#4 ++ x ++ y ++ 0x1#4) (.orReg x y) ∧
      ∃ t, exec (.orReg x y) s = .next t ∧
        (∀ b, (t.reg x).getLsbD b = ((s.reg x).getLsbD b || (s.reg y).getLsbD b)) ∧
        (∀ k, k ≠ x → t.reg k = s.reg k) ∧ t.pc = s.pc + 2 ∧ SameBut [.v, .pc] s t) ∧
    (IsWordOf (0x8#4 ++ x ++ y ++ 0x2#4) (.andReg x y) ∧
      ∃ t, exec (.andReg x y) s = .next t ∧
        (∀ b, (t.reg x).getLsbD b = ((s.reg x).getLsbD b && (s.reg y).getLsbD b)) ∧
        (∀ k, k ≠ x → t.reg k = s.reg k) ∧ t.pc = s.pc + 2 ∧ SameBut [.v, .pc] s t) ∧
    (IsWordOf (0x8#4 ++ x ++ y ++ 0x3#4) (.xorReg x y) ∧
      ∃ t, exec (.xorReg x y) s = .next t ∧
        (∀ b, (t.reg x).getLsbD b = ((s.reg x).getLsbD b ^^ (s.reg y).getLsbD b)) ∧
        (∀ k, k ≠ x → t.reg k = s.reg k) ∧ t.pc = s.pc + 2 ∧ SameBut [.v, .pc] s t)

/-- 8xy4 stores the sum mod 256 and VF = 1 exactly when it passes 255; with x = 15 the flag is what remains (R137). -/
def Obligations.AddRegistersResult : Prop :=
  ∀ x y s, IsWordOf (0x8#4 ++ x ++ y ++ 0x4#4) (.addReg x y) ∧
    ∃ t, exec (.addReg x y) s = .next t ∧
      (x ≠ 15 → (t.reg x).toNat = ((s.reg x).toNat + (s.reg y).toNat) % 256) ∧
      t.reg 15 = (if 255 < (s.reg x).toNat + (s.reg y).toNat then 1 else 0) ∧
      (∀ k, k ≠ x → k ≠ 15 → t.reg k = s.reg k) ∧ t.pc = s.pc + 2 ∧ SameBut [.v, .pc] s t

/-- 8xy5 stores `V[x] - V[y]` mod 256 and VF = 1 exactly when `V[x] ≥ V[y]`; with x = 15 the flag remains (R138). -/
def Obligations.SubtractResult : Prop :=
  ∀ x y s, IsWordOf (0x8#4 ++ x ++ y ++ 0x5#4) (.sub x y) ∧
    ∃ t, exec (.sub x y) s = .next t ∧
      (x ≠ 15 → (t.reg x).toNat = ((s.reg x).toNat + 256 - (s.reg y).toNat) % 256) ∧
      t.reg 15 = (if (s.reg y).toNat ≤ (s.reg x).toNat then 1 else 0) ∧
      (∀ k, k ≠ x → k ≠ 15 → t.reg k = s.reg k) ∧ t.pc = s.pc + 2 ∧ SameBut [.v, .pc] s t

/-- 8xy7 stores `V[y] - V[x]` mod 256 and VF = 1 exactly when `V[y] ≥ V[x]`; with x = 15 the flag remains (R139). -/
def Obligations.ReverseSubtractResult : Prop :=
  ∀ x y s, IsWordOf (0x8#4 ++ x ++ y ++ 0x7#4) (.subn x y) ∧
    ∃ t, exec (.subn x y) s = .next t ∧
      (x ≠ 15 → (t.reg x).toNat = ((s.reg y).toNat + 256 - (s.reg x).toNat) % 256) ∧
      t.reg 15 = (if (s.reg x).toNat ≤ (s.reg y).toNat then 1 else 0) ∧
      (∀ k, k ≠ x → k ≠ 15 → t.reg k = s.reg k) ∧ t.pc = s.pc + 2 ∧ SameBut [.v, .pc] s t

/-- 8xy6 shifts `V[y]` or `V[x]`, by `SHIFT_USES_VY`, right by one with a 0 coming in; VF = the operand's bit 0 (R140). -/
def Obligations.ShiftRightResult : Prop :=
  ∀ x y s, IsWordOf (0x8#4 ++ x ++ y ++ 0x6#4) (.shr x y) ∧
    ∃ t b, b = (if shiftUsesVy then s.reg y else s.reg x) ∧ exec (.shr x y) s = .next t ∧
      (x ≠ 15 → (t.reg x).toNat = b.toNat / 2) ∧ (t.reg 15).toNat = b.toNat % 2 ∧
      (∀ k, k ≠ x → k ≠ 15 → t.reg k = s.reg k) ∧ t.pc = s.pc + 2 ∧ SameBut [.v, .pc] s t

/-- 8xyE shifts `V[y]` or `V[x]`, by `SHIFT_USES_VY`, left by one; VF = the operand's bit 7 (R141). -/
def Obligations.ShiftLeftResult : Prop :=
  ∀ x y s, IsWordOf (0x8#4 ++ x ++ y ++ 0xE#4) (.shl x y) ∧
    ∃ t b, b = (if shiftUsesVy then s.reg y else s.reg x) ∧ exec (.shl x y) s = .next t ∧
      (x ≠ 15 → (t.reg x).toNat = b.toNat * 2 % 256) ∧ (t.reg 15).toNat = b.toNat / 128 ∧
      (∀ k, k ≠ x → k ≠ 15 → t.reg k = s.reg k) ∧ t.pc = s.pc + 2 ∧ SameBut [.v, .pc] s t

/-- Cxnn stores the cycle's draw masked by the byte, whatever the draw is; it takes exactly one draw (R142, R263; the draw is a
free value and its count the model's field, log entry 5). -/
def Obligations.RandomResult : Prop :=
  ∀ x nn s, IsWordOf (0xC#4 ++ x ++ nn) (.rnd x nn) ∧
    ∃ t, exec (.rnd x nn) s = .next t ∧
      (∀ b, (t.reg x).getLsbD b = ((Config.draw s.draws).getLsbD b && nn.getLsbD b)) ∧
      (∀ k, k ≠ x → t.reg k = s.reg k) ∧ t.draws = s.draws + 1 ∧ t.pc = s.pc + 2 ∧ SameBut [.v, .draws, .pc] s t

/-! Display (42_display.md). -/

/-- 00E0 clears every pixel and sets `CLEAR` and `REDRAW` (R171). -/
def Obligations.ClearScreenResult : Prop :=
  IsWordOf 0x00E0 .cls ∧
  ∀ s, ∃ t, exec .cls s = .next t ∧ (∀ px py, px < 64 → py < 32 → t.pixel px py = false) ∧ t.clear = true ∧
    t.redraw = true ∧ t.pc = s.pc + 2 ∧ SameBut [.fb, .clear, .redraw, .pc] s t

/-- Dxyn with its bytes in memory and every set bit on screen XORs the sprite in, bit `7 - c` of row `r` at column
`V[x] + c` of framebuffer row `V[y] + r`, and sets VF on a collision, whatever `SPRITE_EDGE` is (R173). -/
def Obligations.DrawOnScreenResult : Prop :=
  ∀ x y n s, IsWordOf (0xD#4 ++ x ++ y ++ n) (.drw x y n) ∧
    (BlockInMemory s n.toNat → (∀ r c, ¬OffScreen s x y n r c) →
      ∃ t, exec (.drw x y n) s = .next t ∧ Drawn spriteEdge x y n s t)

/-- DRW is `drawAt` at the machine's `SPRITE_EDGE`; with its bytes in memory, under `Wrap` and `Clip` it draws every sprite,
wrapping or dropping the bits off screen, and under `Fault` it draws one with none (R174, R175, R176). -/
def Obligations.DrawUnderEveryEdge : Prop :=
  ∀ x y n s, exec (.drw x y n) s = drawAt spriteEdge x y n s ∧
    ∀ edge, BlockInMemory s n.toNat → (edge = .fault → ∀ r c, ¬OffScreen s x y n r c) →
      ∃ t, drawAt edge x y n s = .next t ∧ Drawn edge x y n s t

/-- Under `SPRITE_EDGE = Fault` a set bit off screen raises `SpriteOutOfBounds`, cause code 6, with `py * 256 + px` of the
first offending bit in row, then column order (R246; stored mod 2^16, log entry 11). -/
def Obligations.SpriteOffScreenHalts : Prop :=
  Cause.code .spriteOutOfBounds = 6 ∧
  ∀ x y n s r c, BlockInMemory s n.toNat → OffScreen s x y n r c →
    (∀ r' c', OffScreen s x y n r' c' → r < r' ∨ (r = r' ∧ c ≤ c')) →
    ∃ t, drawAt .fault x y n s = .next t ∧ (spriteEdge = .fault → exec (.drw x y n) s = .next t) ∧
      Fatal .spriteOutOfBounds s.fetchedWord
        (BitVec.ofNat 16 (((s.reg y).toNat + r) * 256 + ((s.reg x).toNat + c))) s t

/-- Two draws of the same sprite at the same place, with no other write of the framebuffer between them, restore it; the
second sets VF exactly when the first turned a pixel from 0 to 1 (R177). -/
def Obligations.DrawTwiceRestores : Prop :=
  ∀ x y n s t u, exec (.drw x y n) s = .next t → t.halted = false →
    u.reg x = s.reg x → u.reg y = s.reg y → u.ireg = s.ireg → (∀ a, u.byteAt a = s.byteAt a) →
    (∀ px py, px < 64 → py < 32 → u.pixel px py = t.pixel px py) →
    ∃ w, exec (.drw x y n) u = .next w ∧
      (∀ px py, px < 64 → py < 32 → w.pixel px py = s.pixel px py) ∧
      ((∃ px py, px < 64 ∧ py < 32 ∧ s.pixel px py = false ∧ t.pixel px py = true) → w.reg 15 = 1) ∧
      ((∀ px py, px < 64 → py < 32 → s.pixel px py = false → t.pixel px py = false) → w.reg 15 = 0)

/-! Index register and memory transfers (43_memory_index.md). -/

/-- Annn loads the zero-extended address into `I` (R181). -/
def Obligations.LoadIndexResult : Prop :=
  ∀ nnn s, IsWordOf (0xA#4 ++ nnn) (.ldI nnn) ∧
    ∃ t, exec (.ldI nnn) s = .next t ∧ t.ireg.toNat = nnn.toNat ∧ t.pc = s.pc + 2 ∧ SameBut [.i, .pc] s t

/-- Fx1E adds `V[x]` to `I` mod 2^16; VF is not written (R182). -/
def Obligations.AddIndexResult : Prop :=
  ∀ x s, IsWordOf (0xF#4 ++ x ++ 0x1E#8) (.addI x) ∧
    ∃ t, exec (.addI x) s = .next t ∧ t.ireg.toNat = (s.ireg.toNat + (s.reg x).toNat) % 65536 ∧ t.pc = s.pc + 2 ∧
      SameBut [.i, .pc] s t

/-- Fx29 sets `I` to the glyph address `V[x] * 5` for a digit 0 to 15, and takes `FontDigitOutOfRange`, cause code 8, for a
larger value (R183, R248). -/
def Obligations.FontAddressResult : Prop :=
  Cause.code .fontDigitOutOfRange = 8 ∧
  ∀ x s, IsWordOf (0xF#4 ++ x ++ 0x29#8) (.ldF x) ∧
    ((s.reg x).toNat ≤ 15 →
      ∃ t, exec (.ldF x) s = .next t ∧ t.ireg.toNat = (s.reg x).toNat * 5 ∧ t.pc = s.pc + 2 ∧ SameBut [.i, .pc] s t) ∧
    (15 < (s.reg x).toNat →
      ∃ t, exec (.ldF x) s = .next t ∧ Fatal .fontDigitOutOfRange s.fetchedWord ((s.reg x).setWidth 16) s t)

/-- Fx33 writes the hundreds, tens and ones of `V[x]` at `I`, `I + 1`, `I + 2` and no other byte; when one of them lies
beyond 0xFFF it raises and writes nothing (R184). -/
def Obligations.DecimalDigitsResult : Prop :=
  ∀ x s, IsWordOf (0xF#4 ++ x ++ 0x33#8) (.ldB x) ∧
    (Memory.wf s.mem = true → BlockInMemory s 3 →
      ∃ t, exec (.ldB x) s = .next t ∧ (t.byteAt (s.effAddr 0)).toNat = (s.reg x).toNat / 100 ∧
        (t.byteAt (s.effAddr 1)).toNat = (s.reg x).toNat / 10 % 10 ∧
        (t.byteAt (s.effAddr 2)).toNat = (s.reg x).toNat % 10 ∧
        (∀ a, a < s.effAddr 0 ∨ s.effAddr 3 ≤ a → t.byteAt a = s.byteAt a) ∧ t.pc = s.pc + 2 ∧
        SameBut [.mem, .pc] s t) ∧
    (¬BlockInMemory s 3 →
      ∃ t, exec (.ldB x) s = .next t ∧ Fatal .dataOutOfRange s.fetchedWord (BitVec.ofNat 16 s.firstBad) s t)

/-- Fx55 stores `V[0]` to `V[x]` from `I` on and no other byte, and advances `I` by `x + 1` when `LOADSTORE_INCREMENTS_I`;
when a byte lies beyond 0xFFF it raises and writes nothing (R185). -/
def Obligations.StoreRegistersResult : Prop :=
  ∀ x s, IsWordOf (0xF#4 ++ x ++ 0x55#8) (.storeRegs x) ∧
    (Memory.wf s.mem = true → BlockInMemory s (x.toNat + 1) →
      ∃ t, exec (.storeRegs x) s = .next t ∧ (∀ k, k.toNat ≤ x.toNat → t.byteAt (s.effAddr k.toNat) = s.reg k) ∧
        (∀ a, a < s.effAddr 0 ∨ s.effAddr (x.toNat + 1) ≤ a → t.byteAt a = s.byteAt a) ∧
        t.ireg.toNat = (if loadStoreIncrementsI then (s.ireg.toNat + x.toNat + 1) % 65536 else s.ireg.toNat) ∧
        t.pc = s.pc + 2 ∧ SameBut [.mem, .i, .pc] s t) ∧
    (¬BlockInMemory s (x.toNat + 1) →
      ∃ t, exec (.storeRegs x) s = .next t ∧
        Fatal .dataOutOfRange s.fetchedWord (BitVec.ofNat 16 s.firstBad) s t)

/-- Fx65 loads `V[0]` to `V[x]` from `I` on and no other register, and advances `I` by `x + 1` when
`LOADSTORE_INCREMENTS_I`; when a byte lies beyond 0xFFF it raises and writes nothing (R186). -/
def Obligations.LoadRegistersResult : Prop :=
  ∀ x s, IsWordOf (0xF#4 ++ x ++ 0x65#8) (.loadRegs x) ∧
    (BlockInMemory s (x.toNat + 1) →
      ∃ t, exec (.loadRegs x) s = .next t ∧ (∀ k, k.toNat ≤ x.toNat → t.reg k = s.byteAt (s.effAddr k.toNat)) ∧
        (∀ k, x.toNat < k.toNat → t.reg k = s.reg k) ∧
        t.ireg.toNat = (if loadStoreIncrementsI then (s.ireg.toNat + x.toNat + 1) % 65536 else s.ireg.toNat) ∧
        t.pc = s.pc + 2 ∧ SameBut [.v, .i, .pc] s t) ∧
    (¬BlockInMemory s (x.toNat + 1) →
      ∃ t, exec (.loadRegs x) s = .next t ∧
        Fatal .dataOutOfRange s.fetchedWord (BitVec.ofNat 16 s.firstBad) s t)

/-- DRW, Fx33, Fx55 and Fx65 whose bytes leave memory take `DataOutOfRange`, cause code 5, with the lowest address beyond
0xFFF, before any write (R243). -/
def Obligations.DataBeyondMemoryHalts : Prop :=
  Cause.code .dataOutOfRange = 5 ∧
  ∀ s i len, ((∃ x, i = .ldB x ∧ len = 3) ∨ (∃ x, i = .storeRegs x ∧ len = x.toNat + 1) ∨
      (∃ x, i = .loadRegs x ∧ len = x.toNat + 1) ∨ (∃ x y n, i = .drw x y n ∧ len = n.toNat)) →
    ¬BlockInMemory s len →
    ∃ t, exec i s = .next t ∧ Fatal .dataOutOfRange s.fetchedWord (BitVec.ofNat 16 s.firstBad) s t

/-- Fx65 is the inverse of Fx55: loading from where the registers were stored gives them back (R186). -/
def Obligations.LoadAfterStoreRestoresRegisters : Prop :=
  ∀ x s t u, Memory.wf s.mem = true → exec (.storeRegs x) s = .next t → t.halted = false →
    u.ireg = s.ireg → (∀ a, u.byteAt a = t.byteAt a) →
    ∃ w, exec (.loadRegs x) u = .next w ∧ ∀ k, k.toNat ≤ x.toNat → w.reg k = s.reg k

/-! Control transfer (44_control_flow.md). -/

/-- 1nnn jumps to the zero-extended address (R203). -/
def Obligations.JumpResult : Prop :=
  ∀ nnn s, IsWordOf (0x1#4 ++ nnn) (.jp nnn) ∧
    ∃ t, exec (.jp nnn) s = .next t ∧ t.pc.toNat = nnn.toNat ∧ SameBut [.pc] s t

/-- Bnnn jumps to `NNN + V[0]`, without wrap (R204). -/
def Obligations.JumpOffsetResult : Prop :=
  ∀ nnn s, IsWordOf (0xB#4 ++ nnn) (.jpV0 nnn) ∧
    ∃ t, exec (.jpV0 nnn) s = .next t ∧ t.pc.toNat = nnn.toNat + (s.reg 0).toNat ∧ SameBut [.pc] s t

/-- 2nnn below depth 16 pushes `pc_old + 2` to slot `SP + 1` and jumps; at depth 16 it takes `StackOverflow`, cause code 2,
with info 16, and changes nothing else (R201, R244). -/
def Obligations.CallResult : Prop :=
  Cause.code .stackOverflow = 2 ∧
  ∀ nnn s, IsWordOf (0x2#4 ++ nnn) (.call nnn) ∧
    (s.sp.toNat < 16 →
      ∃ t, exec (.call nnn) s = .next t ∧ t.sp.toNat = s.sp.toNat + 1 ∧ t.stackSlot t.sp.toNat = s.pc + 2 ∧
        (∀ k, 1 ≤ k → k ≠ t.sp.toNat → t.stackSlot k = s.stackSlot k) ∧ t.pc.toNat = nnn.toNat ∧
        SameBut [.sp, .stack, .pc] s t) ∧
    (s.sp.toNat = 16 → ∃ t, exec (.call nnn) s = .next t ∧ Fatal .stackOverflow s.fetchedWord 16 s t)

/-- 00EE above depth 0 returns to `STACK[SP]` and decrements `SP`, the slot keeping its value; at depth 0 it takes
`StackUnderflow`, cause code 3, with info 0, and changes nothing else (R202, R245). -/
def Obligations.ReturnResult : Prop :=
  Cause.code .stackUnderflow = 3 ∧ IsWordOf 0x00EE .ret ∧
  ∀ s,
    (1 ≤ s.sp.toNat → s.sp.toNat ≤ 16 →
      ∃ t, exec .ret s = .next t ∧ t.pc = s.stackSlot s.sp.toNat ∧ t.sp.toNat = s.sp.toNat - 1 ∧
        SameBut [.sp, .pc] s t) ∧
    (s.sp.toNat = 0 → ∃ t, exec .ret s = .next t ∧ Fatal .stackUnderflow s.fetchedWord 0 s t)

/-- A call and then a return, with the stack as the call left it, come back to the instruction after the call at the depth
before it, for every depth below 16 (R202). -/
def Obligations.ReturnAfterCallComesBack : Prop :=
  ∀ nnn s t u, s.sp.toNat < 16 → exec (.call nnn) s = .next t → u.sp = t.sp →
    (∀ k, 1 ≤ k → k ≤ 16 → u.stackSlot k = t.stackSlot k) →
    ∃ w, exec .ret u = .next w ∧ w.pc = s.pc + 2 ∧ w.sp = s.sp

/-- The register skips end at `pc_old + 4` when their condition holds and at `pc_old + 2` when it does not, and change
nothing else: 3xnn and 5xyn on equality, 4xnn and 9xyn on inequality; 5xyn and 9xyn with `n ≠ 0` decode under
`DECODE_5_9 = Ignore` and are illegal under `Fault` (R205, R206, R207, R208). -/
def Obligations.RegisterSkipResults : Prop :=
  ∀ x y n nn s,
    IsWordOf (0x3#4 ++ x ++ nn) (.seByte x nn) ∧ IsWordOf (0x4#4 ++ x ++ nn) (.sneByte x nn) ∧
    IsWordOf (0x5#4 ++ x ++ y ++ 0x0#4) (.seReg x y 0) ∧ IsWordOf (0x9#4 ++ x ++ y ++ 0x0#4) (.sneReg x y 0) ∧
    decodeWord .ignore (0x5#4 ++ x ++ y ++ n) = .ok (.seReg x y n) ∧
    decodeWord .ignore (0x9#4 ++ x ++ y ++ n) = .ok (.sneReg x y n) ∧
    (n ≠ 0 → (∃ e, decodeWord .fault (0x5#4 ++ x ++ y ++ n) = .error e) ∧
      ∃ e, decodeWord .fault (0x9#4 ++ x ++ y ++ n) = .error e) ∧
    (∃ t, exec (.seByte x nn) s = .next t ∧ t.pc = (if s.reg x = nn then s.pc + 4 else s.pc + 2) ∧ SameBut [.pc] s t) ∧
    (∃ t, exec (.sneByte x nn) s = .next t ∧ t.pc = (if s.reg x = nn then s.pc + 2 else s.pc + 4) ∧
      SameBut [.pc] s t) ∧
    (∃ t, exec (.seReg x y n) s = .next t ∧ t.pc = (if s.reg x = s.reg y then s.pc + 4 else s.pc + 2) ∧
      SameBut [.pc] s t) ∧
    (∃ t, exec (.sneReg x y n) s = .next t ∧ t.pc = (if s.reg x = s.reg y then s.pc + 2 else s.pc + 4) ∧
      SameBut [.pc] s t)

/-! Keyboard and timers (45_keyboard_timer.md). -/

/-- Ex9E skips when the key `V[x]` is down, ExA1 when it is up, for an index 0 to 15; a larger index takes
`KeyIndexOutOfRange`, cause code 7 (R221, R222, R247). -/
def Obligations.KeySkipResults : Prop :=
  Cause.code .keyIndexOutOfRange = 7 ∧
  ∀ x s, IsWordOf (0xE#4 ++ x ++ 0x9E#8) (.skp x) ∧ IsWordOf (0xE#4 ++ x ++ 0xA1#8) (.sknp x) ∧
    ((s.reg x).toNat ≤ 15 →
      (∃ t, exec (.skp x) s = .next t ∧
        t.pc = (if s.keys.getLsbD (s.reg x).toNat then s.pc + 4 else s.pc + 2) ∧ SameBut [.pc] s t) ∧
      (∃ t, exec (.sknp x) s = .next t ∧
        t.pc = (if s.keys.getLsbD (s.reg x).toNat then s.pc + 2 else s.pc + 4) ∧ SameBut [.pc] s t)) ∧
    (15 < (s.reg x).toNat →
      (∃ t, exec (.skp x) s = .next t ∧ Fatal .keyIndexOutOfRange s.fetchedWord ((s.reg x).setWidth 16) s t) ∧
      (∃ t, exec (.sknp x) s = .next t ∧ Fatal .keyIndexOutOfRange s.fetchedWord ((s.reg x).setWidth 16) s t))

/-- Fx0A starts the key wait for `V[x]` and advances the PC; it writes no general register and samples no key (R223). -/
def Obligations.KeyWaitResult : Prop :=
  ∀ x s, IsWordOf (0xF#4 ++ x ++ 0x0A#8) (.ldVxK x) ∧
    ∃ t, exec (.ldVxK x) s = .next t ∧ t.waiting = true ∧ t.waitReg = x ∧ t.pc = s.pc + 2 ∧
      SameBut [.waiting, .waitReg, .pc] s t

/-- A cycle that runs Fx0A and then a key press: the key's index is in `V[x]`, the wait is over, and the PC is after the
instruction (R223). -/
def Obligations.KeyWaitThenPress : Prop :=
  ∀ x k s, s.phase ≠ .beforeReset → s.halted = false → s.waiting = false → s.pc.toNat + 1 ≤ 0xFFF →
    s.fetchedWord = 0xF#4 ++ x ++ 0x0A#8 → s.pending = [.cycle s.keys, .keyPress k] →
    ∃ t u, step s = .next t ∧ t.waiting = true ∧ t.waitOut = true ∧ t.pc = s.pc + 2 ∧
      step t = .next u ∧ (u.reg x).toNat = k.toNat ∧ (∀ r, r ≠ x → u.reg r = s.reg r) ∧ u.waiting = false ∧
      u.waitOut = false ∧ u.pc = s.pc + 2 ∧ u.pending = []

/-- Fx07 reads `DT` into `V[x]`, Fx15 writes `V[x]` to `DT`, Fx18 writes `V[x]` to `ST`, and nothing else changes but the
PC (R224, R225, R226). -/
def Obligations.TimerTransferResults : Prop :=
  ∀ x s, IsWordOf (0xF#4 ++ x ++ 0x07#8) (.ldVxDt x) ∧ IsWordOf (0xF#4 ++ x ++ 0x15#8) (.ldDtVx x) ∧
    IsWordOf (0xF#4 ++ x ++ 0x18#8) (.ldStVx x) ∧
    (∃ t, exec (.ldVxDt x) s = .next t ∧ t.reg x = s.dt ∧ (∀ k, k ≠ x → t.reg k = s.reg k) ∧ t.pc = s.pc + 2 ∧
      SameBut [.v, .pc] s t) ∧
    (∃ t, exec (.ldDtVx x) s = .next t ∧ t.dt = s.reg x ∧ t.pc = s.pc + 2 ∧ SameBut [.dt, .pc] s t) ∧
    (∃ t, exec (.ldStVx x) s = .next t ∧ t.st = s.reg x ∧ t.sound = decide (s.reg x ≠ 0) ∧ t.pc = s.pc + 2 ∧
      SameBut [.st, .pc] s t)

/-! What the host reads (60_exceptions.md). -/

/-- The host's view of `FB` is 2048 bytes, each 0 or 1, with pixel `(x, y)` at element `y * 64 + x`; beside it stand `REDRAW`,
`CLEAR`, `WAIT_OUT`, `SOUND`, `HALTED` and `FAULT` as the state holds them (R30, R261, R265; that `REDRAW` and `CLEAR` survive
other events is the model's inference, log entry 16). -/
def Obligations.HostViewIsRowMajor : Prop :=
  ∀ s : State,
    (∀ px py (hx : px < 64) (hy : py < 32), s.hostView.frame[py * 64 + px] = if s.pixel px py then 1 else 0) ∧
    (∀ k (h : k < 2048), s.hostView.frame[k] = 0 ∨ s.hostView.frame[k] = 1) ∧
    s.hostView.redraw = s.redraw ∧ s.hostView.clear = s.clear ∧ s.hostView.waitOut = s.waitOut ∧
    (s.hostView.sound = true ↔ s.st ≠ 0) ∧ s.hostView.halted = s.halted ∧ s.hostView.fault = s.fault
end

