-- ==== Sys2Proof/Laws/Decode.lean ====
section
/-! SUPPORT. The fields of a word as numbers, and of a word put together from its fields (R71). -/

namespace Sys2Proof

theorem toNat_append' {n m : Nat} (a : BitVec n) (b : BitVec m) : (a ++ b).toNat = a.toNat * 2 ^ m + b.toNat := by
  rw [BitVec.toNat_append, ← Nat.shiftLeft_add_eq_or_of_lt b.isLt, Nat.shiftLeft_eq]

theorem toNat_xb (c x : Nibble) (nn : Byte) : (c ++ x ++ nn).toNat = c.toNat * 4096 + x.toNat * 256 + nn.toNat := by
  simp only [toNat_append']; omega

theorem toNat_xyn (c x y n : Nibble) :
    (c ++ x ++ y ++ n).toNat = c.toNat * 4096 + x.toNat * 256 + y.toNat * 16 + n.toNat := by
  simp only [toNat_append']; omega

theorem toNat_a (c : Nibble) (nnn : Addr) : (c ++ nnn).toNat = c.toNat * 4096 + nnn.toNat := toNat_append' ..

theorem toNat_fieldC (w : Word) : (fieldC w).toNat = w.toNat / 4096 := by
  simp only [fieldC, BitVec.extractLsb'_toNat, Nat.shiftRight_eq_div_pow]; omega
theorem toNat_fieldX (w : Word) : (fieldX w).toNat = w.toNat / 256 % 16 := by
  simp only [fieldX, BitVec.extractLsb'_toNat, Nat.shiftRight_eq_div_pow]
theorem toNat_fieldY (w : Word) : (fieldY w).toNat = w.toNat / 16 % 16 := by
  simp only [fieldY, BitVec.extractLsb'_toNat, Nat.shiftRight_eq_div_pow]
theorem toNat_fieldN (w : Word) : (fieldN w).toNat = w.toNat % 16 := by
  simp only [fieldN, BitVec.extractLsb'_toNat, Nat.shiftRight_zero]
theorem toNat_fieldNN (w : Word) : (fieldNN w).toNat = w.toNat % 256 := by
  simp only [fieldNN, BitVec.extractLsb'_toNat, Nat.shiftRight_zero]
theorem toNat_fieldNNN (w : Word) : (fieldNNN w).toNat = w.toNat % 4096 := by
  simp only [fieldNNN, BitVec.extractLsb'_toNat, Nat.shiftRight_zero]

@[simp] theorem fieldC_xb (c x : Nibble) (nn : Byte) : fieldC (c ++ x ++ nn) = c := by
  apply BitVec.eq_of_toNat_eq; rw [toNat_fieldC, toNat_xb]; omega
@[simp] theorem fieldX_xb (c x : Nibble) (nn : Byte) : fieldX (c ++ x ++ nn) = x := by
  apply BitVec.eq_of_toNat_eq; rw [toNat_fieldX, toNat_xb]; omega
@[simp] theorem fieldNN_xb (c x : Nibble) (nn : Byte) : fieldNN (c ++ x ++ nn) = nn := by
  apply BitVec.eq_of_toNat_eq; rw [toNat_fieldNN, toNat_xb]; omega
@[simp] theorem fieldC_a (c : Nibble) (nnn : Addr) : fieldC (c ++ nnn) = c := by
  apply BitVec.eq_of_toNat_eq; rw [toNat_fieldC, toNat_a]; omega
@[simp] theorem fieldNNN_a (c : Nibble) (nnn : Addr) : fieldNNN (c ++ nnn) = nnn := by
  apply BitVec.eq_of_toNat_eq; rw [toNat_fieldNNN, toNat_a]; omega
@[simp] theorem fieldC_xyn (c x y n : Nibble) : fieldC (c ++ x ++ y ++ n) = c := by
  apply BitVec.eq_of_toNat_eq; rw [toNat_fieldC, toNat_xyn]; omega
@[simp] theorem fieldX_xyn (c x y n : Nibble) : fieldX (c ++ x ++ y ++ n) = x := by
  apply BitVec.eq_of_toNat_eq; rw [toNat_fieldX, toNat_xyn]; omega
@[simp] theorem fieldY_xyn (c x y n : Nibble) : fieldY (c ++ x ++ y ++ n) = y := by
  apply BitVec.eq_of_toNat_eq; rw [toNat_fieldY, toNat_xyn]; omega
@[simp] theorem fieldN_xyn (c x y n : Nibble) : fieldN (c ++ x ++ y ++ n) = n := by
  apply BitVec.eq_of_toNat_eq; rw [toNat_fieldN, toNat_xyn]; omega

/-- A word is its class, register and byte (format XB). -/
theorem word_eq_xb (w : Word) : fieldC w ++ fieldX w ++ fieldNN w = w := by
  apply BitVec.eq_of_toNat_eq; rw [toNat_xb, toNat_fieldC, toNat_fieldX, toNat_fieldNN]; omega
/-- A word is its class and address (format A). -/
theorem word_eq_a (w : Word) : fieldC w ++ fieldNNN w = w := by
  apply BitVec.eq_of_toNat_eq; rw [toNat_a, toNat_fieldC, toNat_fieldNNN]; omega
/-- A word is its four nibbles (formats XY and XYN). -/
theorem word_eq_xyn (w : Word) : fieldC w ++ fieldX w ++ fieldY w ++ fieldN w = w := by
  apply BitVec.eq_of_toNat_eq; rw [toNat_xyn, toNat_fieldC, toNat_fieldX, toNat_fieldY, toNat_fieldN]; omega

/-- The word of two bytes is big-endian (R52). -/
theorem toNat_wordOfBytes (hi lo : Byte) : (wordOfBytes hi lo).toNat = hi.toNat * 256 + lo.toNat := toNat_append' ..

end Sys2Proof
end

