-- ==== Sys2Proof/Laws/Memory.lean ====
section
/-! SUPPORT. Memory: read after write, the frame of a write, the canonical form and what it is for, and the range check. -/

namespace Sys2Proof.Machine

theorem Memory.wfFrom_cons {lo a : Nat} {u : Byte} {m : Memory} :
    Memory.wfFrom lo ((a, u) :: m) = true ↔
      lo ≤ a ∧ a ≤ 0xFFF ∧ u ≠ resetByte a ∧ Memory.wfFrom (a + 1) m = true := by
  simp [Memory.wfFrom, inMemory, and_assoc]

theorem Memory.wfFrom_mono {lo hi : Nat} {m : Memory} (h : Memory.wfFrom hi m = true) (hl : lo ≤ hi) :
    Memory.wfFrom lo m = true := by
  cases m with
  | nil => rfl
  | cons c m =>
    obtain ⟨h1, h2⟩ := Memory.wfFrom_cons.1 h
    exact Memory.wfFrom_cons.2 ⟨hl.trans h1, h2⟩

/-- An address below every listed one reads as its reset contents. -/
theorem Memory.read_below {lo : Nat} {m : Memory} (h : Memory.wfFrom lo m = true) {a : Nat} (ha : a < lo) :
    Memory.read m a = resetByte a := by
  induction m generalizing lo with
  | nil => rfl
  | cons c m ih =>
    obtain ⟨h1, -, -, h2⟩ := Memory.wfFrom_cons.1 h
    rw [Memory.read, if_neg (by omega)]
    exact ih h2 (by omega)

theorem Memory.read_listed_self {a : Nat} {u : Byte} {m : Memory} (h : Memory.wfFrom (a + 1) m = true) :
    Memory.read (Memory.listed a u m) a = u := by
  unfold Memory.listed
  split
  · next e => rw [Memory.read_below h (Nat.lt_succ_self a), e]
  · simp [Memory.read]

theorem Memory.read_listed_ne {a k : Nat} {u : Byte} {m : Memory} (h : k ≠ a) :
    Memory.read (Memory.listed a u m) k = Memory.read m k := by
  unfold Memory.listed
  split
  · rfl
  · simp [Memory.read, h]

theorem Memory.wfFrom_listed {lo a : Nat} {u : Byte} {m : Memory} (hl : lo ≤ a) (ha : a ≤ 0xFFF)
    (h : Memory.wfFrom (a + 1) m = true) : Memory.wfFrom lo (Memory.listed a u m) = true := by
  unfold Memory.listed
  split
  · exact Memory.wfFrom_mono h (by omega)
  · next e => exact Memory.wfFrom_cons.2 ⟨hl, ha, e, h⟩

/-- A read after a write to the same address gives the byte written (R58). -/
theorem Memory.read_write_self {lo : Nat} {m : Memory} (h : Memory.wfFrom lo m = true) (a : Nat) (u : Byte) :
    Memory.read (Memory.write m a u) a = u := by
  induction m generalizing lo with
  | nil => exact Memory.read_listed_self rfl
  | cons c m ih =>
    obtain ⟨b, t⟩ := c
    obtain ⟨-, h1, h2, h3⟩ := Memory.wfFrom_cons.1 h
    rw [Memory.write]
    split
    · exact Memory.read_listed_self (Memory.wfFrom_cons.2 ⟨by omega, h1, h2, h3⟩)
    · split
      · next e => subst e; exact Memory.read_listed_self h3
      · next e => rw [Memory.read, if_neg e]; exact ih h3

/-- A write leaves every other address alone. -/
theorem Memory.read_write_ne (m : Memory) {a k : Nat} (u : Byte) (h : k ≠ a) :
    Memory.read (Memory.write m a u) k = Memory.read m k := by
  induction m with
  | nil => exact Memory.read_listed_ne h
  | cons c m ih =>
    obtain ⟨b, t⟩ := c
    rw [Memory.write]
    split
    · exact Memory.read_listed_ne h
    · split
      · next e => subst e; rw [Memory.read_listed_ne h, Memory.read, if_neg h]
      · rw [Memory.read, Memory.read, ih]

/-- A write in memory keeps the canonical form. -/
theorem Memory.wfFrom_write {lo : Nat} {m : Memory} (h : Memory.wfFrom lo m = true) {a : Nat} (hl : lo ≤ a)
    (ha : a ≤ 0xFFF) (u : Byte) : Memory.wfFrom lo (Memory.write m a u) = true := by
  induction m generalizing lo with
  | nil => exact Memory.wfFrom_listed hl ha rfl
  | cons c m ih =>
    obtain ⟨b, t⟩ := c
    obtain ⟨h0, h1, h2, h3⟩ := Memory.wfFrom_cons.1 h
    rw [Memory.write]
    split
    · exact Memory.wfFrom_listed hl ha (Memory.wfFrom_cons.2 ⟨by omega, h1, h2, h3⟩)
    · split
      · next e => subst e; exact Memory.wfFrom_listed hl ha h3
      · exact Memory.wfFrom_cons.2 ⟨h0, h1, h2, ih h3 (by omega)⟩

theorem Memory.wf_write {m : Memory} (h : Memory.wf m = true) {a : Nat} (ha : a ≤ 0xFFF) (u : Byte) :
    Memory.wf (Memory.write m a u) = true :=
  Memory.wfFrom_write h (Nat.zero_le a) ha u

/-- Writing a block leaves every address outside it alone. -/
theorem Memory.read_writeBytes_outside (m : Memory) {a k : Nat} (us : List Byte) (h : k < a ∨ a + us.length ≤ k) :
    Memory.read (Memory.writeBytes m a us) k = Memory.read m k := by
  induction us generalizing m a with
  | nil => rfl
  | cons u us ih =>
    rw [List.length_cons] at h
    rw [Memory.writeBytes, ih (Memory.write m a u) (by omega), Memory.read_write_ne m u (by omega)]

/-- Writing a block that lies in memory keeps the canonical form. -/
theorem Memory.wf_writeBytes {m : Memory} (h : Memory.wf m = true) {a : Nat} (us : List Byte)
    (ha : a + us.length ≤ 0x1000) : Memory.wf (Memory.writeBytes m a us) = true := by
  induction us generalizing m a with
  | nil => exact h
  | cons u us ih =>
    rw [List.length_cons] at ha
    exact ih (Memory.wf_write h (by omega) u) (by omega)

/-- After writing a block, its `k`-th address reads as its `k`-th byte. -/
theorem Memory.read_writeBytes_inside {m : Memory} (h : Memory.wf m = true) {a : Nat} (us : List Byte)
    (ha : a + us.length ≤ 0x1000) {k : Nat} (hk : k < us.length) :
    Memory.read (Memory.writeBytes m a us) (a + k) = us[k] := by
  induction us generalizing m a k with
  | nil => exact absurd hk (Nat.not_lt_zero k)
  | cons u us ih =>
    rw [List.length_cons] at ha hk
    rw [Memory.writeBytes]
    cases k with
    | zero =>
      rw [Memory.read_writeBytes_outside _ us (by omega)]
      exact Memory.read_write_self h a u
    | succ k =>
      have hw : Memory.wf (Memory.write m a u) = true := Memory.wf_write h (by omega) u
      have := ih hw (a := a + 1) (by omega) (k := k) (by omega)
      rw [show a + (k + 1) = a + 1 + k by omega, this]
      rfl

/-- Equal readings are equal lists: what the canonical form is for. -/
theorem Memory.eq_of_read {lo : Nat} {m m' : Memory} (h : Memory.wfFrom lo m = true) (h' : Memory.wfFrom lo m' = true)
    (e : ∀ a, Memory.read m a = Memory.read m' a) : m = m' := by
  induction m generalizing lo m' with
  | nil =>
    cases m' with
    | nil => rfl
    | cons c m' =>
      obtain ⟨-, -, h2, -⟩ := Memory.wfFrom_cons.1 h'
      have := e c.1
      simp only [Memory.read, if_true] at this
      exact absurd this.symm h2
  | cons c m ih =>
    obtain ⟨b, t⟩ := c
    obtain ⟨h0, h1, h2, h3⟩ := Memory.wfFrom_cons.1 h
    cases m' with
    | nil =>
      have := e b
      simp only [Memory.read, if_true] at this
      exact absurd this h2
    | cons c' m' =>
      obtain ⟨b', t'⟩ := c'
      obtain ⟨h0', h1', h2', h3'⟩ := Memory.wfFrom_cons.1 h'
      have hb : b = b' := by
        rcases Nat.lt_trichotomy b b' with hlt | heq | hgt
        · have := e b
          simp only [Memory.read, if_true, if_neg (Nat.ne_of_lt hlt)] at this
          rw [Memory.read_below h3' (by omega)] at this
          exact absurd this h2
        · exact heq
        · have := e b'
          simp only [Memory.read, if_true, if_neg (Nat.ne_of_lt hgt)] at this
          rw [Memory.read_below h3 (by omega)] at this
          exact absurd this.symm h2'
      subst hb
      have ht : t = t' := by simpa [Memory.read] using e b
      subst ht
      congr 1
      refine ih h3 h3' fun a => ?_
      by_cases ha : a = b
      · subst ha; rw [Memory.read_below h3 (by omega), Memory.read_below h3' (by omega)]
      · simpa [Memory.read, ha] using e a

@[simp] theorem Memory.length_readBytes (m : Memory) (a n : Nat) : (Memory.readBytes m a n).length = n := by
  induction n generalizing a with
  | zero => rfl
  | succ n ih => simp [Memory.readBytes, ih]

theorem Memory.getElem_readBytes (m : Memory) (a n k : Nat) (h : k < (Memory.readBytes m a n).length) :
    (Memory.readBytes m a n)[k] = Memory.read m (a + k) := by
  induction n generalizing a k with
  | zero => exact absurd h (by simp [Memory.readBytes])
  | succ n ih =>
    cases k with
    | zero => rfl
    | succ k =>
      have := ih (a + 1) k (by simpa [Memory.readBytes] using h)
      simpa [Memory.readBytes, Nat.add_assoc, Nat.add_comm 1] using this

/-- The range check finds nothing exactly when the block is empty or lies in memory. -/
theorem firstOutOfRange_eq_none_iff {a n : Nat} : firstOutOfRange a n = none ↔ n = 0 ∨ a + n ≤ 0x1000 := by
  induction n generalizing a with
  | zero => simp [firstOutOfRange]
  | succ n ih =>
    rw [firstOutOfRange]
    by_cases h : a ≤ 0xFFF
    · simp only [inMemory, h, decide_true, if_true, ih]
      omega
    · simp only [inMemory, h, decide_false, Bool.false_eq_true, if_false, reduceCtorEq, false_or, false_iff]
      omega

/-- A block that leaves memory is reported by its lowest address beyond 0xFFF. -/
theorem firstOutOfRange_eq_some {a n : Nat} (h0 : n ≠ 0) (h : 0x1000 < a + n) :
    firstOutOfRange a n = some (max a 0x1000) := by
  induction n generalizing a with
  | zero => exact absurd rfl h0
  | succ n ih =>
    rw [firstOutOfRange]
    by_cases ha : a ≤ 0xFFF
    · simp only [inMemory, ha, decide_true, if_true]
      rw [ih (a := a + 1) (by omega) (by omega), Nat.max_eq_right (show a + 1 ≤ 0x1000 by omega),
        Nat.max_eq_right (show a ≤ 0x1000 by omega)]
    · simp only [inMemory, ha, decide_false, Bool.false_eq_true, if_false]
      rw [Nat.max_eq_left (show 0x1000 ≤ a by omega)]

/-- A block load fills registers 0 to `n - 1` and keeps the rest. -/
theorem loadBlock_getElem (m : Memory) (base n : Nat) (v : Vector (BitVec 8) 16) (k : Nat) (hk : k < 16) :
    (loadBlock m base n v)[k] = if k < n then Memory.read m (base + k) else v[k] := by
  induction n with
  | zero => simp [loadBlock]
  | succ n ih =>
    rw [loadBlock, Vector.getElem_setIfInBounds]
    by_cases e : n = k
    · subst e; simp
    · rw [if_neg e, ih]
      by_cases h : k < n
      · rw [if_pos h, if_pos (by omega)]
      · rw [if_neg h, if_neg (by omega)]

end Sys2Proof.Machine
end

