-- ==== Sys2Proof/Laws/State.lean ====
section
/-! SUPPORT. What each update of the state leaves in each field, so that no later proof unfolds a record update. -/

namespace Sys2Proof.Machine

/-! `State.setReg`. -/

@[simp] theorem State.setReg_mem (s : State) (x : Nibble) (b : Byte) : (s.setReg x b).mem = s.mem := rfl
@[simp] theorem State.setReg_v (s : State) (x : Nibble) (b : Byte) : (s.setReg x b).v = s.v.set x.toNat b x.isLt := rfl
@[simp] theorem State.setReg_ireg (s : State) (x : Nibble) (b : Byte) : (s.setReg x b).ireg = s.ireg := rfl
@[simp] theorem State.setReg_pc (s : State) (x : Nibble) (b : Byte) : (s.setReg x b).pc = s.pc := rfl
@[simp] theorem State.setReg_sp (s : State) (x : Nibble) (b : Byte) : (s.setReg x b).sp = s.sp := rfl
@[simp] theorem State.setReg_stack (s : State) (x : Nibble) (b : Byte) : (s.setReg x b).stack = s.stack := rfl
@[simp] theorem State.setReg_fb (s : State) (x : Nibble) (b : Byte) : (s.setReg x b).fb = s.fb := rfl
@[simp] theorem State.setReg_dt (s : State) (x : Nibble) (b : Byte) : (s.setReg x b).dt = s.dt := rfl
@[simp] theorem State.setReg_st (s : State) (x : Nibble) (b : Byte) : (s.setReg x b).st = s.st := rfl
@[simp] theorem State.setReg_waiting (s : State) (x : Nibble) (b : Byte) : (s.setReg x b).waiting = s.waiting := rfl
@[simp] theorem State.setReg_waitReg (s : State) (x : Nibble) (b : Byte) : (s.setReg x b).waitReg = s.waitReg := rfl
@[simp] theorem State.setReg_halted (s : State) (x : Nibble) (b : Byte) : (s.setReg x b).halted = s.halted := rfl
@[simp] theorem State.setReg_fault (s : State) (x : Nibble) (b : Byte) : (s.setReg x b).fault = s.fault := rfl
@[simp] theorem State.setReg_redraw (s : State) (x : Nibble) (b : Byte) : (s.setReg x b).redraw = s.redraw := rfl
@[simp] theorem State.setReg_clear (s : State) (x : Nibble) (b : Byte) : (s.setReg x b).clear = s.clear := rfl
@[simp] theorem State.setReg_waitOut (s : State) (x : Nibble) (b : Byte) : (s.setReg x b).waitOut = s.waitOut := rfl
@[simp] theorem State.setReg_keys (s : State) (x : Nibble) (b : Byte) : (s.setReg x b).keys = s.keys := rfl
@[simp] theorem State.setReg_draws (s : State) (x : Nibble) (b : Byte) : (s.setReg x b).draws = s.draws := rfl
@[simp] theorem State.setReg_phase (s : State) (x : Nibble) (b : Byte) : (s.setReg x b).phase = s.phase := rfl
@[simp] theorem State.setReg_pending (s : State) (x : Nibble) (b : Byte) : (s.setReg x b).pending = s.pending := rfl

/-! `State.setI`. -/

@[simp] theorem State.setI_mem (s : State) (w : Word) : (s.setI w).mem = s.mem := rfl
@[simp] theorem State.setI_v (s : State) (w : Word) : (s.setI w).v = s.v := rfl
@[simp] theorem State.setI_ireg (s : State) (w : Word) : (s.setI w).ireg = w := rfl
@[simp] theorem State.setI_pc (s : State) (w : Word) : (s.setI w).pc = s.pc := rfl
@[simp] theorem State.setI_sp (s : State) (w : Word) : (s.setI w).sp = s.sp := rfl
@[simp] theorem State.setI_stack (s : State) (w : Word) : (s.setI w).stack = s.stack := rfl
@[simp] theorem State.setI_fb (s : State) (w : Word) : (s.setI w).fb = s.fb := rfl
@[simp] theorem State.setI_dt (s : State) (w : Word) : (s.setI w).dt = s.dt := rfl
@[simp] theorem State.setI_st (s : State) (w : Word) : (s.setI w).st = s.st := rfl
@[simp] theorem State.setI_waiting (s : State) (w : Word) : (s.setI w).waiting = s.waiting := rfl
@[simp] theorem State.setI_waitReg (s : State) (w : Word) : (s.setI w).waitReg = s.waitReg := rfl
@[simp] theorem State.setI_halted (s : State) (w : Word) : (s.setI w).halted = s.halted := rfl
@[simp] theorem State.setI_fault (s : State) (w : Word) : (s.setI w).fault = s.fault := rfl
@[simp] theorem State.setI_redraw (s : State) (w : Word) : (s.setI w).redraw = s.redraw := rfl
@[simp] theorem State.setI_clear (s : State) (w : Word) : (s.setI w).clear = s.clear := rfl
@[simp] theorem State.setI_waitOut (s : State) (w : Word) : (s.setI w).waitOut = s.waitOut := rfl
@[simp] theorem State.setI_keys (s : State) (w : Word) : (s.setI w).keys = s.keys := rfl
@[simp] theorem State.setI_draws (s : State) (w : Word) : (s.setI w).draws = s.draws := rfl
@[simp] theorem State.setI_phase (s : State) (w : Word) : (s.setI w).phase = s.phase := rfl
@[simp] theorem State.setI_pending (s : State) (w : Word) : (s.setI w).pending = s.pending := rfl

/-! `State.setMem`. -/

@[simp] theorem State.setMem_mem (s : State) (m : Memory) : (s.setMem m).mem = m := rfl
@[simp] theorem State.setMem_v (s : State) (m : Memory) : (s.setMem m).v = s.v := rfl
@[simp] theorem State.setMem_ireg (s : State) (m : Memory) : (s.setMem m).ireg = s.ireg := rfl
@[simp] theorem State.setMem_pc (s : State) (m : Memory) : (s.setMem m).pc = s.pc := rfl
@[simp] theorem State.setMem_sp (s : State) (m : Memory) : (s.setMem m).sp = s.sp := rfl
@[simp] theorem State.setMem_stack (s : State) (m : Memory) : (s.setMem m).stack = s.stack := rfl
@[simp] theorem State.setMem_fb (s : State) (m : Memory) : (s.setMem m).fb = s.fb := rfl
@[simp] theorem State.setMem_dt (s : State) (m : Memory) : (s.setMem m).dt = s.dt := rfl
@[simp] theorem State.setMem_st (s : State) (m : Memory) : (s.setMem m).st = s.st := rfl
@[simp] theorem State.setMem_waiting (s : State) (m : Memory) : (s.setMem m).waiting = s.waiting := rfl
@[simp] theorem State.setMem_waitReg (s : State) (m : Memory) : (s.setMem m).waitReg = s.waitReg := rfl
@[simp] theorem State.setMem_halted (s : State) (m : Memory) : (s.setMem m).halted = s.halted := rfl
@[simp] theorem State.setMem_fault (s : State) (m : Memory) : (s.setMem m).fault = s.fault := rfl
@[simp] theorem State.setMem_redraw (s : State) (m : Memory) : (s.setMem m).redraw = s.redraw := rfl
@[simp] theorem State.setMem_clear (s : State) (m : Memory) : (s.setMem m).clear = s.clear := rfl
@[simp] theorem State.setMem_waitOut (s : State) (m : Memory) : (s.setMem m).waitOut = s.waitOut := rfl
@[simp] theorem State.setMem_keys (s : State) (m : Memory) : (s.setMem m).keys = s.keys := rfl
@[simp] theorem State.setMem_draws (s : State) (m : Memory) : (s.setMem m).draws = s.draws := rfl
@[simp] theorem State.setMem_phase (s : State) (m : Memory) : (s.setMem m).phase = s.phase := rfl
@[simp] theorem State.setMem_pending (s : State) (m : Memory) : (s.setMem m).pending = s.pending := rfl

/-! `State.setPc`. -/

@[simp] theorem State.setPc_mem (s : State) (w : Word) : (s.setPc w).mem = s.mem := rfl
@[simp] theorem State.setPc_v (s : State) (w : Word) : (s.setPc w).v = s.v := rfl
@[simp] theorem State.setPc_ireg (s : State) (w : Word) : (s.setPc w).ireg = s.ireg := rfl
@[simp] theorem State.setPc_pc (s : State) (w : Word) : (s.setPc w).pc = w := rfl
@[simp] theorem State.setPc_sp (s : State) (w : Word) : (s.setPc w).sp = s.sp := rfl
@[simp] theorem State.setPc_stack (s : State) (w : Word) : (s.setPc w).stack = s.stack := rfl
@[simp] theorem State.setPc_fb (s : State) (w : Word) : (s.setPc w).fb = s.fb := rfl
@[simp] theorem State.setPc_dt (s : State) (w : Word) : (s.setPc w).dt = s.dt := rfl
@[simp] theorem State.setPc_st (s : State) (w : Word) : (s.setPc w).st = s.st := rfl
@[simp] theorem State.setPc_waiting (s : State) (w : Word) : (s.setPc w).waiting = s.waiting := rfl
@[simp] theorem State.setPc_waitReg (s : State) (w : Word) : (s.setPc w).waitReg = s.waitReg := rfl
@[simp] theorem State.setPc_halted (s : State) (w : Word) : (s.setPc w).halted = s.halted := rfl
@[simp] theorem State.setPc_fault (s : State) (w : Word) : (s.setPc w).fault = s.fault := rfl
@[simp] theorem State.setPc_redraw (s : State) (w : Word) : (s.setPc w).redraw = s.redraw := rfl
@[simp] theorem State.setPc_clear (s : State) (w : Word) : (s.setPc w).clear = s.clear := rfl
@[simp] theorem State.setPc_waitOut (s : State) (w : Word) : (s.setPc w).waitOut = s.waitOut := rfl
@[simp] theorem State.setPc_keys (s : State) (w : Word) : (s.setPc w).keys = s.keys := rfl
@[simp] theorem State.setPc_draws (s : State) (w : Word) : (s.setPc w).draws = s.draws := rfl
@[simp] theorem State.setPc_phase (s : State) (w : Word) : (s.setPc w).phase = s.phase := rfl
@[simp] theorem State.setPc_pending (s : State) (w : Word) : (s.setPc w).pending = s.pending := rfl

/-! `State.push`. -/

@[simp] theorem State.push_mem (s : State) (w : Word) : (s.push w).mem = s.mem := rfl
@[simp] theorem State.push_v (s : State) (w : Word) : (s.push w).v = s.v := rfl
@[simp] theorem State.push_ireg (s : State) (w : Word) : (s.push w).ireg = s.ireg := rfl
@[simp] theorem State.push_pc (s : State) (w : Word) : (s.push w).pc = s.pc := rfl
@[simp] theorem State.push_sp (s : State) (w : Word) : (s.push w).sp = s.sp + 1 := rfl
@[simp] theorem State.push_stack (s : State) (w : Word) : (s.push w).stack = s.stack.setIfInBounds s.sp.toNat w := rfl
@[simp] theorem State.push_fb (s : State) (w : Word) : (s.push w).fb = s.fb := rfl
@[simp] theorem State.push_dt (s : State) (w : Word) : (s.push w).dt = s.dt := rfl
@[simp] theorem State.push_st (s : State) (w : Word) : (s.push w).st = s.st := rfl
@[simp] theorem State.push_waiting (s : State) (w : Word) : (s.push w).waiting = s.waiting := rfl
@[simp] theorem State.push_waitReg (s : State) (w : Word) : (s.push w).waitReg = s.waitReg := rfl
@[simp] theorem State.push_halted (s : State) (w : Word) : (s.push w).halted = s.halted := rfl
@[simp] theorem State.push_fault (s : State) (w : Word) : (s.push w).fault = s.fault := rfl
@[simp] theorem State.push_redraw (s : State) (w : Word) : (s.push w).redraw = s.redraw := rfl
@[simp] theorem State.push_clear (s : State) (w : Word) : (s.push w).clear = s.clear := rfl
@[simp] theorem State.push_waitOut (s : State) (w : Word) : (s.push w).waitOut = s.waitOut := rfl
@[simp] theorem State.push_keys (s : State) (w : Word) : (s.push w).keys = s.keys := rfl
@[simp] theorem State.push_draws (s : State) (w : Word) : (s.push w).draws = s.draws := rfl
@[simp] theorem State.push_phase (s : State) (w : Word) : (s.push w).phase = s.phase := rfl
@[simp] theorem State.push_pending (s : State) (w : Word) : (s.push w).pending = s.pending := rfl

/-! `State.pop`. -/

@[simp] theorem State.pop_mem (s : State) : (s.pop).mem = s.mem := rfl
@[simp] theorem State.pop_v (s : State) : (s.pop).v = s.v := rfl
@[simp] theorem State.pop_ireg (s : State) : (s.pop).ireg = s.ireg := rfl
@[simp] theorem State.pop_pc (s : State) : (s.pop).pc = s.pc := rfl
@[simp] theorem State.pop_sp (s : State) : (s.pop).sp = s.sp - 1 := rfl
@[simp] theorem State.pop_stack (s : State) : (s.pop).stack = s.stack := rfl
@[simp] theorem State.pop_fb (s : State) : (s.pop).fb = s.fb := rfl
@[simp] theorem State.pop_dt (s : State) : (s.pop).dt = s.dt := rfl
@[simp] theorem State.pop_st (s : State) : (s.pop).st = s.st := rfl
@[simp] theorem State.pop_waiting (s : State) : (s.pop).waiting = s.waiting := rfl
@[simp] theorem State.pop_waitReg (s : State) : (s.pop).waitReg = s.waitReg := rfl
@[simp] theorem State.pop_halted (s : State) : (s.pop).halted = s.halted := rfl
@[simp] theorem State.pop_fault (s : State) : (s.pop).fault = s.fault := rfl
@[simp] theorem State.pop_redraw (s : State) : (s.pop).redraw = s.redraw := rfl
@[simp] theorem State.pop_clear (s : State) : (s.pop).clear = s.clear := rfl
@[simp] theorem State.pop_waitOut (s : State) : (s.pop).waitOut = s.waitOut := rfl
@[simp] theorem State.pop_keys (s : State) : (s.pop).keys = s.keys := rfl
@[simp] theorem State.pop_draws (s : State) : (s.pop).draws = s.draws := rfl
@[simp] theorem State.pop_phase (s : State) : (s.pop).phase = s.phase := rfl
@[simp] theorem State.pop_pending (s : State) : (s.pop).pending = s.pending := rfl

/-! `State.takeFatal`. -/

@[simp] theorem State.takeFatal_mem (s : State) (c : Cause) (w info : Word) : (s.takeFatal c w info).mem = s.mem := rfl
@[simp] theorem State.takeFatal_v (s : State) (c : Cause) (w info : Word) : (s.takeFatal c w info).v = s.v := rfl
@[simp] theorem State.takeFatal_ireg (s : State) (c : Cause) (w info : Word) : (s.takeFatal c w info).ireg = s.ireg := rfl
@[simp] theorem State.takeFatal_pc (s : State) (c : Cause) (w info : Word) : (s.takeFatal c w info).pc = s.pc := rfl
@[simp] theorem State.takeFatal_sp (s : State) (c : Cause) (w info : Word) : (s.takeFatal c w info).sp = s.sp := rfl
@[simp] theorem State.takeFatal_stack (s : State) (c : Cause) (w info : Word) : (s.takeFatal c w info).stack = s.stack := rfl
@[simp] theorem State.takeFatal_fb (s : State) (c : Cause) (w info : Word) : (s.takeFatal c w info).fb = s.fb := rfl
@[simp] theorem State.takeFatal_dt (s : State) (c : Cause) (w info : Word) : (s.takeFatal c w info).dt = s.dt := rfl
@[simp] theorem State.takeFatal_st (s : State) (c : Cause) (w info : Word) : (s.takeFatal c w info).st = s.st := rfl
@[simp] theorem State.takeFatal_waiting (s : State) (c : Cause) (w info : Word) : (s.takeFatal c w info).waiting = s.waiting := rfl
@[simp] theorem State.takeFatal_waitReg (s : State) (c : Cause) (w info : Word) : (s.takeFatal c w info).waitReg = s.waitReg := rfl
@[simp] theorem State.takeFatal_halted (s : State) (c : Cause) (w info : Word) : (s.takeFatal c w info).halted = true := rfl
@[simp] theorem State.takeFatal_fault (s : State) (c : Cause) (w info : Word) : (s.takeFatal c w info).fault = { cause := c, pc := s.pc, word := w, info := info } := rfl
@[simp] theorem State.takeFatal_redraw (s : State) (c : Cause) (w info : Word) : (s.takeFatal c w info).redraw = false := rfl
@[simp] theorem State.takeFatal_clear (s : State) (c : Cause) (w info : Word) : (s.takeFatal c w info).clear = false := rfl
@[simp] theorem State.takeFatal_waitOut (s : State) (c : Cause) (w info : Word) : (s.takeFatal c w info).waitOut = s.waitOut := rfl
@[simp] theorem State.takeFatal_keys (s : State) (c : Cause) (w info : Word) : (s.takeFatal c w info).keys = s.keys := rfl
@[simp] theorem State.takeFatal_draws (s : State) (c : Cause) (w info : Word) : (s.takeFatal c w info).draws = s.draws := rfl
@[simp] theorem State.takeFatal_phase (s : State) (c : Cause) (w info : Word) : (s.takeFatal c w info).phase = s.phase := rfl
@[simp] theorem State.takeFatal_pending (s : State) (c : Cause) (w info : Word) : (s.takeFatal c w info).pending = s.pending := rfl

/-! `State.advance`. -/

@[simp] theorem State.advance_mem (s : State) : (s.advance).mem = s.mem := rfl
@[simp] theorem State.advance_v (s : State) : (s.advance).v = s.v := rfl
@[simp] theorem State.advance_ireg (s : State) : (s.advance).ireg = s.ireg := rfl
@[simp] theorem State.advance_pc (s : State) : (s.advance).pc = s.pc + 2 := rfl
@[simp] theorem State.advance_sp (s : State) : (s.advance).sp = s.sp := rfl
@[simp] theorem State.advance_stack (s : State) : (s.advance).stack = s.stack := rfl
@[simp] theorem State.advance_fb (s : State) : (s.advance).fb = s.fb := rfl
@[simp] theorem State.advance_dt (s : State) : (s.advance).dt = s.dt := rfl
@[simp] theorem State.advance_st (s : State) : (s.advance).st = s.st := rfl
@[simp] theorem State.advance_waiting (s : State) : (s.advance).waiting = s.waiting := rfl
@[simp] theorem State.advance_waitReg (s : State) : (s.advance).waitReg = s.waitReg := rfl
@[simp] theorem State.advance_halted (s : State) : (s.advance).halted = s.halted := rfl
@[simp] theorem State.advance_fault (s : State) : (s.advance).fault = s.fault := rfl
@[simp] theorem State.advance_redraw (s : State) : (s.advance).redraw = s.redraw := rfl
@[simp] theorem State.advance_clear (s : State) : (s.advance).clear = s.clear := rfl
@[simp] theorem State.advance_waitOut (s : State) : (s.advance).waitOut = s.waitOut := rfl
@[simp] theorem State.advance_keys (s : State) : (s.advance).keys = s.keys := rfl
@[simp] theorem State.advance_draws (s : State) : (s.advance).draws = s.draws := rfl
@[simp] theorem State.advance_phase (s : State) : (s.advance).phase = s.phase := rfl
@[simp] theorem State.advance_pending (s : State) : (s.advance).pending = s.pending := rfl

/-! `State.skipIf`. -/

@[simp] theorem State.skipIf_mem (s : State) (c : Bool) : (s.skipIf c).mem = s.mem := rfl
@[simp] theorem State.skipIf_v (s : State) (c : Bool) : (s.skipIf c).v = s.v := rfl
@[simp] theorem State.skipIf_ireg (s : State) (c : Bool) : (s.skipIf c).ireg = s.ireg := rfl
@[simp] theorem State.skipIf_pc (s : State) (c : Bool) : (s.skipIf c).pc = if c then s.pc + 2 + 2 else s.pc + 2 := rfl
@[simp] theorem State.skipIf_sp (s : State) (c : Bool) : (s.skipIf c).sp = s.sp := rfl
@[simp] theorem State.skipIf_stack (s : State) (c : Bool) : (s.skipIf c).stack = s.stack := rfl
@[simp] theorem State.skipIf_fb (s : State) (c : Bool) : (s.skipIf c).fb = s.fb := rfl
@[simp] theorem State.skipIf_dt (s : State) (c : Bool) : (s.skipIf c).dt = s.dt := rfl
@[simp] theorem State.skipIf_st (s : State) (c : Bool) : (s.skipIf c).st = s.st := rfl
@[simp] theorem State.skipIf_waiting (s : State) (c : Bool) : (s.skipIf c).waiting = s.waiting := rfl
@[simp] theorem State.skipIf_waitReg (s : State) (c : Bool) : (s.skipIf c).waitReg = s.waitReg := rfl
@[simp] theorem State.skipIf_halted (s : State) (c : Bool) : (s.skipIf c).halted = s.halted := rfl
@[simp] theorem State.skipIf_fault (s : State) (c : Bool) : (s.skipIf c).fault = s.fault := rfl
@[simp] theorem State.skipIf_redraw (s : State) (c : Bool) : (s.skipIf c).redraw = s.redraw := rfl
@[simp] theorem State.skipIf_clear (s : State) (c : Bool) : (s.skipIf c).clear = s.clear := rfl
@[simp] theorem State.skipIf_waitOut (s : State) (c : Bool) : (s.skipIf c).waitOut = s.waitOut := rfl
@[simp] theorem State.skipIf_keys (s : State) (c : Bool) : (s.skipIf c).keys = s.keys := rfl
@[simp] theorem State.skipIf_draws (s : State) (c : Bool) : (s.skipIf c).draws = s.draws := rfl
@[simp] theorem State.skipIf_phase (s : State) (c : Bool) : (s.skipIf c).phase = s.phase := rfl
@[simp] theorem State.skipIf_pending (s : State) (c : Bool) : (s.skipIf c).pending = s.pending := rfl

/-! `State.beginCycle`. -/

@[simp] theorem State.beginCycle_mem (s : State) : (s.beginCycle).mem = s.mem := rfl
@[simp] theorem State.beginCycle_v (s : State) : (s.beginCycle).v = s.v := rfl
@[simp] theorem State.beginCycle_ireg (s : State) : (s.beginCycle).ireg = s.ireg := rfl
@[simp] theorem State.beginCycle_pc (s : State) : (s.beginCycle).pc = s.pc := rfl
@[simp] theorem State.beginCycle_sp (s : State) : (s.beginCycle).sp = s.sp := rfl
@[simp] theorem State.beginCycle_stack (s : State) : (s.beginCycle).stack = s.stack := rfl
@[simp] theorem State.beginCycle_fb (s : State) : (s.beginCycle).fb = s.fb := rfl
@[simp] theorem State.beginCycle_dt (s : State) : (s.beginCycle).dt = s.dt := rfl
@[simp] theorem State.beginCycle_st (s : State) : (s.beginCycle).st = s.st := rfl
@[simp] theorem State.beginCycle_waiting (s : State) : (s.beginCycle).waiting = s.waiting := rfl
@[simp] theorem State.beginCycle_waitReg (s : State) : (s.beginCycle).waitReg = s.waitReg := rfl
@[simp] theorem State.beginCycle_halted (s : State) : (s.beginCycle).halted = s.halted := rfl
@[simp] theorem State.beginCycle_fault (s : State) : (s.beginCycle).fault = s.fault := rfl
@[simp] theorem State.beginCycle_redraw (s : State) : (s.beginCycle).redraw = false := rfl
@[simp] theorem State.beginCycle_clear (s : State) : (s.beginCycle).clear = false := rfl
@[simp] theorem State.beginCycle_waitOut (s : State) : (s.beginCycle).waitOut = s.waitOut := rfl
@[simp] theorem State.beginCycle_keys (s : State) : (s.beginCycle).keys = s.keys := rfl
@[simp] theorem State.beginCycle_draws (s : State) : (s.beginCycle).draws = s.draws := rfl
@[simp] theorem State.beginCycle_phase (s : State) : (s.beginCycle).phase = .loadClosed := rfl
@[simp] theorem State.beginCycle_pending (s : State) : (s.beginCycle).pending = s.pending := rfl

/-! `State.hostReset`. -/

@[simp] theorem State.hostReset_mem (s : State) : (s.hostReset).mem = State.reset.mem := rfl
@[simp] theorem State.hostReset_v (s : State) : (s.hostReset).v = State.reset.v := rfl
@[simp] theorem State.hostReset_ireg (s : State) : (s.hostReset).ireg = State.reset.ireg := rfl
@[simp] theorem State.hostReset_pc (s : State) : (s.hostReset).pc = State.reset.pc := rfl
@[simp] theorem State.hostReset_sp (s : State) : (s.hostReset).sp = State.reset.sp := rfl
@[simp] theorem State.hostReset_stack (s : State) : (s.hostReset).stack = State.reset.stack := rfl
@[simp] theorem State.hostReset_fb (s : State) : (s.hostReset).fb = State.reset.fb := rfl
@[simp] theorem State.hostReset_dt (s : State) : (s.hostReset).dt = State.reset.dt := rfl
@[simp] theorem State.hostReset_st (s : State) : (s.hostReset).st = State.reset.st := rfl
@[simp] theorem State.hostReset_waiting (s : State) : (s.hostReset).waiting = State.reset.waiting := rfl
@[simp] theorem State.hostReset_waitReg (s : State) : (s.hostReset).waitReg = State.reset.waitReg := rfl
@[simp] theorem State.hostReset_halted (s : State) : (s.hostReset).halted = State.reset.halted := rfl
@[simp] theorem State.hostReset_fault (s : State) : (s.hostReset).fault = State.reset.fault := rfl
@[simp] theorem State.hostReset_redraw (s : State) : (s.hostReset).redraw = State.reset.redraw := rfl
@[simp] theorem State.hostReset_clear (s : State) : (s.hostReset).clear = State.reset.clear := rfl
@[simp] theorem State.hostReset_waitOut (s : State) : (s.hostReset).waitOut = State.reset.waitOut := rfl
@[simp] theorem State.hostReset_keys (s : State) : (s.hostReset).keys = s.keys := rfl
@[simp] theorem State.hostReset_draws (s : State) : (s.hostReset).draws = s.draws := rfl
@[simp] theorem State.hostReset_phase (s : State) : (s.hostReset).phase = State.reset.phase := rfl
@[simp] theorem State.hostReset_pending (s : State) : (s.hostReset).pending = s.pending := rfl

/-! `State.setRegs`. -/

@[simp] theorem State.setRegs_mem (s : State) (v : Vector (BitVec 8) 16) : (s.setRegs v).mem = s.mem := rfl
@[simp] theorem State.setRegs_v (s : State) (v : Vector (BitVec 8) 16) : (s.setRegs v).v = v := rfl
@[simp] theorem State.setRegs_ireg (s : State) (v : Vector (BitVec 8) 16) : (s.setRegs v).ireg = s.ireg := rfl
@[simp] theorem State.setRegs_pc (s : State) (v : Vector (BitVec 8) 16) : (s.setRegs v).pc = s.pc := rfl
@[simp] theorem State.setRegs_sp (s : State) (v : Vector (BitVec 8) 16) : (s.setRegs v).sp = s.sp := rfl
@[simp] theorem State.setRegs_stack (s : State) (v : Vector (BitVec 8) 16) : (s.setRegs v).stack = s.stack := rfl
@[simp] theorem State.setRegs_fb (s : State) (v : Vector (BitVec 8) 16) : (s.setRegs v).fb = s.fb := rfl
@[simp] theorem State.setRegs_dt (s : State) (v : Vector (BitVec 8) 16) : (s.setRegs v).dt = s.dt := rfl
@[simp] theorem State.setRegs_st (s : State) (v : Vector (BitVec 8) 16) : (s.setRegs v).st = s.st := rfl
@[simp] theorem State.setRegs_waiting (s : State) (v : Vector (BitVec 8) 16) : (s.setRegs v).waiting = s.waiting := rfl
@[simp] theorem State.setRegs_waitReg (s : State) (v : Vector (BitVec 8) 16) : (s.setRegs v).waitReg = s.waitReg := rfl
@[simp] theorem State.setRegs_halted (s : State) (v : Vector (BitVec 8) 16) : (s.setRegs v).halted = s.halted := rfl
@[simp] theorem State.setRegs_fault (s : State) (v : Vector (BitVec 8) 16) : (s.setRegs v).fault = s.fault := rfl
@[simp] theorem State.setRegs_redraw (s : State) (v : Vector (BitVec 8) 16) : (s.setRegs v).redraw = s.redraw := rfl
@[simp] theorem State.setRegs_clear (s : State) (v : Vector (BitVec 8) 16) : (s.setRegs v).clear = s.clear := rfl
@[simp] theorem State.setRegs_waitOut (s : State) (v : Vector (BitVec 8) 16) : (s.setRegs v).waitOut = s.waitOut := rfl
@[simp] theorem State.setRegs_keys (s : State) (v : Vector (BitVec 8) 16) : (s.setRegs v).keys = s.keys := rfl
@[simp] theorem State.setRegs_draws (s : State) (v : Vector (BitVec 8) 16) : (s.setRegs v).draws = s.draws := rfl
@[simp] theorem State.setRegs_phase (s : State) (v : Vector (BitVec 8) 16) : (s.setRegs v).phase = s.phase := rfl
@[simp] theorem State.setRegs_pending (s : State) (v : Vector (BitVec 8) 16) : (s.setRegs v).pending = s.pending := rfl

/-! `State.setFb`. -/

@[simp] theorem State.setFb_mem (s : State) (fb : Vector (BitVec 64) 32) : (s.setFb fb).mem = s.mem := rfl
@[simp] theorem State.setFb_v (s : State) (fb : Vector (BitVec 64) 32) : (s.setFb fb).v = s.v := rfl
@[simp] theorem State.setFb_ireg (s : State) (fb : Vector (BitVec 64) 32) : (s.setFb fb).ireg = s.ireg := rfl
@[simp] theorem State.setFb_pc (s : State) (fb : Vector (BitVec 64) 32) : (s.setFb fb).pc = s.pc := rfl
@[simp] theorem State.setFb_sp (s : State) (fb : Vector (BitVec 64) 32) : (s.setFb fb).sp = s.sp := rfl
@[simp] theorem State.setFb_stack (s : State) (fb : Vector (BitVec 64) 32) : (s.setFb fb).stack = s.stack := rfl
@[simp] theorem State.setFb_fb (s : State) (fb : Vector (BitVec 64) 32) : (s.setFb fb).fb = fb := rfl
@[simp] theorem State.setFb_dt (s : State) (fb : Vector (BitVec 64) 32) : (s.setFb fb).dt = s.dt := rfl
@[simp] theorem State.setFb_st (s : State) (fb : Vector (BitVec 64) 32) : (s.setFb fb).st = s.st := rfl
@[simp] theorem State.setFb_waiting (s : State) (fb : Vector (BitVec 64) 32) : (s.setFb fb).waiting = s.waiting := rfl
@[simp] theorem State.setFb_waitReg (s : State) (fb : Vector (BitVec 64) 32) : (s.setFb fb).waitReg = s.waitReg := rfl
@[simp] theorem State.setFb_halted (s : State) (fb : Vector (BitVec 64) 32) : (s.setFb fb).halted = s.halted := rfl
@[simp] theorem State.setFb_fault (s : State) (fb : Vector (BitVec 64) 32) : (s.setFb fb).fault = s.fault := rfl
@[simp] theorem State.setFb_redraw (s : State) (fb : Vector (BitVec 64) 32) : (s.setFb fb).redraw = s.redraw := rfl
@[simp] theorem State.setFb_clear (s : State) (fb : Vector (BitVec 64) 32) : (s.setFb fb).clear = s.clear := rfl
@[simp] theorem State.setFb_waitOut (s : State) (fb : Vector (BitVec 64) 32) : (s.setFb fb).waitOut = s.waitOut := rfl
@[simp] theorem State.setFb_keys (s : State) (fb : Vector (BitVec 64) 32) : (s.setFb fb).keys = s.keys := rfl
@[simp] theorem State.setFb_draws (s : State) (fb : Vector (BitVec 64) 32) : (s.setFb fb).draws = s.draws := rfl
@[simp] theorem State.setFb_phase (s : State) (fb : Vector (BitVec 64) 32) : (s.setFb fb).phase = s.phase := rfl
@[simp] theorem State.setFb_pending (s : State) (fb : Vector (BitVec 64) 32) : (s.setFb fb).pending = s.pending := rfl

/-! `State.setOutputs`. -/

@[simp] theorem State.setOutputs_mem (s : State) (a b : Bool) : (s.setOutputs a b).mem = s.mem := rfl
@[simp] theorem State.setOutputs_v (s : State) (a b : Bool) : (s.setOutputs a b).v = s.v := rfl
@[simp] theorem State.setOutputs_ireg (s : State) (a b : Bool) : (s.setOutputs a b).ireg = s.ireg := rfl
@[simp] theorem State.setOutputs_pc (s : State) (a b : Bool) : (s.setOutputs a b).pc = s.pc := rfl
@[simp] theorem State.setOutputs_sp (s : State) (a b : Bool) : (s.setOutputs a b).sp = s.sp := rfl
@[simp] theorem State.setOutputs_stack (s : State) (a b : Bool) : (s.setOutputs a b).stack = s.stack := rfl
@[simp] theorem State.setOutputs_fb (s : State) (a b : Bool) : (s.setOutputs a b).fb = s.fb := rfl
@[simp] theorem State.setOutputs_dt (s : State) (a b : Bool) : (s.setOutputs a b).dt = s.dt := rfl
@[simp] theorem State.setOutputs_st (s : State) (a b : Bool) : (s.setOutputs a b).st = s.st := rfl
@[simp] theorem State.setOutputs_waiting (s : State) (a b : Bool) : (s.setOutputs a b).waiting = s.waiting := rfl
@[simp] theorem State.setOutputs_waitReg (s : State) (a b : Bool) : (s.setOutputs a b).waitReg = s.waitReg := rfl
@[simp] theorem State.setOutputs_halted (s : State) (a b : Bool) : (s.setOutputs a b).halted = s.halted := rfl
@[simp] theorem State.setOutputs_fault (s : State) (a b : Bool) : (s.setOutputs a b).fault = s.fault := rfl
@[simp] theorem State.setOutputs_redraw (s : State) (a b : Bool) : (s.setOutputs a b).redraw = a := rfl
@[simp] theorem State.setOutputs_clear (s : State) (a b : Bool) : (s.setOutputs a b).clear = b := rfl
@[simp] theorem State.setOutputs_waitOut (s : State) (a b : Bool) : (s.setOutputs a b).waitOut = s.waitOut := rfl
@[simp] theorem State.setOutputs_keys (s : State) (a b : Bool) : (s.setOutputs a b).keys = s.keys := rfl
@[simp] theorem State.setOutputs_draws (s : State) (a b : Bool) : (s.setOutputs a b).draws = s.draws := rfl
@[simp] theorem State.setOutputs_phase (s : State) (a b : Bool) : (s.setOutputs a b).phase = s.phase := rfl
@[simp] theorem State.setOutputs_pending (s : State) (a b : Bool) : (s.setOutputs a b).pending = s.pending := rfl

/-! `State.setTimers`. -/

@[simp] theorem State.setTimers_mem (s : State) (a b : Byte) : (s.setTimers a b).mem = s.mem := rfl
@[simp] theorem State.setTimers_v (s : State) (a b : Byte) : (s.setTimers a b).v = s.v := rfl
@[simp] theorem State.setTimers_ireg (s : State) (a b : Byte) : (s.setTimers a b).ireg = s.ireg := rfl
@[simp] theorem State.setTimers_pc (s : State) (a b : Byte) : (s.setTimers a b).pc = s.pc := rfl
@[simp] theorem State.setTimers_sp (s : State) (a b : Byte) : (s.setTimers a b).sp = s.sp := rfl
@[simp] theorem State.setTimers_stack (s : State) (a b : Byte) : (s.setTimers a b).stack = s.stack := rfl
@[simp] theorem State.setTimers_fb (s : State) (a b : Byte) : (s.setTimers a b).fb = s.fb := rfl
@[simp] theorem State.setTimers_dt (s : State) (a b : Byte) : (s.setTimers a b).dt = a := rfl
@[simp] theorem State.setTimers_st (s : State) (a b : Byte) : (s.setTimers a b).st = b := rfl
@[simp] theorem State.setTimers_waiting (s : State) (a b : Byte) : (s.setTimers a b).waiting = s.waiting := rfl
@[simp] theorem State.setTimers_waitReg (s : State) (a b : Byte) : (s.setTimers a b).waitReg = s.waitReg := rfl
@[simp] theorem State.setTimers_halted (s : State) (a b : Byte) : (s.setTimers a b).halted = s.halted := rfl
@[simp] theorem State.setTimers_fault (s : State) (a b : Byte) : (s.setTimers a b).fault = s.fault := rfl
@[simp] theorem State.setTimers_redraw (s : State) (a b : Byte) : (s.setTimers a b).redraw = s.redraw := rfl
@[simp] theorem State.setTimers_clear (s : State) (a b : Byte) : (s.setTimers a b).clear = s.clear := rfl
@[simp] theorem State.setTimers_waitOut (s : State) (a b : Byte) : (s.setTimers a b).waitOut = s.waitOut := rfl
@[simp] theorem State.setTimers_keys (s : State) (a b : Byte) : (s.setTimers a b).keys = s.keys := rfl
@[simp] theorem State.setTimers_draws (s : State) (a b : Byte) : (s.setTimers a b).draws = s.draws := rfl
@[simp] theorem State.setTimers_phase (s : State) (a b : Byte) : (s.setTimers a b).phase = s.phase := rfl
@[simp] theorem State.setTimers_pending (s : State) (a b : Byte) : (s.setTimers a b).pending = s.pending := rfl

/-! `State.startWait`. -/

@[simp] theorem State.startWait_mem (s : State) (x : Nibble) : (s.startWait x).mem = s.mem := rfl
@[simp] theorem State.startWait_v (s : State) (x : Nibble) : (s.startWait x).v = s.v := rfl
@[simp] theorem State.startWait_ireg (s : State) (x : Nibble) : (s.startWait x).ireg = s.ireg := rfl
@[simp] theorem State.startWait_pc (s : State) (x : Nibble) : (s.startWait x).pc = s.pc := rfl
@[simp] theorem State.startWait_sp (s : State) (x : Nibble) : (s.startWait x).sp = s.sp := rfl
@[simp] theorem State.startWait_stack (s : State) (x : Nibble) : (s.startWait x).stack = s.stack := rfl
@[simp] theorem State.startWait_fb (s : State) (x : Nibble) : (s.startWait x).fb = s.fb := rfl
@[simp] theorem State.startWait_dt (s : State) (x : Nibble) : (s.startWait x).dt = s.dt := rfl
@[simp] theorem State.startWait_st (s : State) (x : Nibble) : (s.startWait x).st = s.st := rfl
@[simp] theorem State.startWait_waiting (s : State) (x : Nibble) : (s.startWait x).waiting = true := rfl
@[simp] theorem State.startWait_waitReg (s : State) (x : Nibble) : (s.startWait x).waitReg = x := rfl
@[simp] theorem State.startWait_halted (s : State) (x : Nibble) : (s.startWait x).halted = s.halted := rfl
@[simp] theorem State.startWait_fault (s : State) (x : Nibble) : (s.startWait x).fault = s.fault := rfl
@[simp] theorem State.startWait_redraw (s : State) (x : Nibble) : (s.startWait x).redraw = s.redraw := rfl
@[simp] theorem State.startWait_clear (s : State) (x : Nibble) : (s.startWait x).clear = s.clear := rfl
@[simp] theorem State.startWait_waitOut (s : State) (x : Nibble) : (s.startWait x).waitOut = s.waitOut := rfl
@[simp] theorem State.startWait_keys (s : State) (x : Nibble) : (s.startWait x).keys = s.keys := rfl
@[simp] theorem State.startWait_draws (s : State) (x : Nibble) : (s.startWait x).draws = s.draws := rfl
@[simp] theorem State.startWait_phase (s : State) (x : Nibble) : (s.startWait x).phase = s.phase := rfl
@[simp] theorem State.startWait_pending (s : State) (x : Nibble) : (s.startWait x).pending = s.pending := rfl

/-! `State.countDraw`. -/

@[simp] theorem State.countDraw_mem (s : State) : (s.countDraw).mem = s.mem := rfl
@[simp] theorem State.countDraw_v (s : State) : (s.countDraw).v = s.v := rfl
@[simp] theorem State.countDraw_ireg (s : State) : (s.countDraw).ireg = s.ireg := rfl
@[simp] theorem State.countDraw_pc (s : State) : (s.countDraw).pc = s.pc := rfl
@[simp] theorem State.countDraw_sp (s : State) : (s.countDraw).sp = s.sp := rfl
@[simp] theorem State.countDraw_stack (s : State) : (s.countDraw).stack = s.stack := rfl
@[simp] theorem State.countDraw_fb (s : State) : (s.countDraw).fb = s.fb := rfl
@[simp] theorem State.countDraw_dt (s : State) : (s.countDraw).dt = s.dt := rfl
@[simp] theorem State.countDraw_st (s : State) : (s.countDraw).st = s.st := rfl
@[simp] theorem State.countDraw_waiting (s : State) : (s.countDraw).waiting = s.waiting := rfl
@[simp] theorem State.countDraw_waitReg (s : State) : (s.countDraw).waitReg = s.waitReg := rfl
@[simp] theorem State.countDraw_halted (s : State) : (s.countDraw).halted = s.halted := rfl
@[simp] theorem State.countDraw_fault (s : State) : (s.countDraw).fault = s.fault := rfl
@[simp] theorem State.countDraw_redraw (s : State) : (s.countDraw).redraw = s.redraw := rfl
@[simp] theorem State.countDraw_clear (s : State) : (s.countDraw).clear = s.clear := rfl
@[simp] theorem State.countDraw_waitOut (s : State) : (s.countDraw).waitOut = s.waitOut := rfl
@[simp] theorem State.countDraw_keys (s : State) : (s.countDraw).keys = s.keys := rfl
@[simp] theorem State.countDraw_draws (s : State) : (s.countDraw).draws = s.draws + 1 := rfl
@[simp] theorem State.countDraw_phase (s : State) : (s.countDraw).phase = s.phase := rfl
@[simp] theorem State.countDraw_pending (s : State) : (s.countDraw).pending = s.pending := rfl

/-! `State.setKeys`. -/

@[simp] theorem State.setKeys_mem (s : State) (k : BitVec 16) : (s.setKeys k).mem = s.mem := rfl
@[simp] theorem State.setKeys_v (s : State) (k : BitVec 16) : (s.setKeys k).v = s.v := rfl
@[simp] theorem State.setKeys_ireg (s : State) (k : BitVec 16) : (s.setKeys k).ireg = s.ireg := rfl
@[simp] theorem State.setKeys_pc (s : State) (k : BitVec 16) : (s.setKeys k).pc = s.pc := rfl
@[simp] theorem State.setKeys_sp (s : State) (k : BitVec 16) : (s.setKeys k).sp = s.sp := rfl
@[simp] theorem State.setKeys_stack (s : State) (k : BitVec 16) : (s.setKeys k).stack = s.stack := rfl
@[simp] theorem State.setKeys_fb (s : State) (k : BitVec 16) : (s.setKeys k).fb = s.fb := rfl
@[simp] theorem State.setKeys_dt (s : State) (k : BitVec 16) : (s.setKeys k).dt = s.dt := rfl
@[simp] theorem State.setKeys_st (s : State) (k : BitVec 16) : (s.setKeys k).st = s.st := rfl
@[simp] theorem State.setKeys_waiting (s : State) (k : BitVec 16) : (s.setKeys k).waiting = s.waiting := rfl
@[simp] theorem State.setKeys_waitReg (s : State) (k : BitVec 16) : (s.setKeys k).waitReg = s.waitReg := rfl
@[simp] theorem State.setKeys_halted (s : State) (k : BitVec 16) : (s.setKeys k).halted = s.halted := rfl
@[simp] theorem State.setKeys_fault (s : State) (k : BitVec 16) : (s.setKeys k).fault = s.fault := rfl
@[simp] theorem State.setKeys_redraw (s : State) (k : BitVec 16) : (s.setKeys k).redraw = s.redraw := rfl
@[simp] theorem State.setKeys_clear (s : State) (k : BitVec 16) : (s.setKeys k).clear = s.clear := rfl
@[simp] theorem State.setKeys_waitOut (s : State) (k : BitVec 16) : (s.setKeys k).waitOut = s.waitOut := rfl
@[simp] theorem State.setKeys_keys (s : State) (k : BitVec 16) : (s.setKeys k).keys = k := rfl
@[simp] theorem State.setKeys_draws (s : State) (k : BitVec 16) : (s.setKeys k).draws = s.draws := rfl
@[simp] theorem State.setKeys_phase (s : State) (k : BitVec 16) : (s.setKeys k).phase = s.phase := rfl
@[simp] theorem State.setKeys_pending (s : State) (k : BitVec 16) : (s.setKeys k).pending = s.pending := rfl

/-! `State.setPending`. -/

@[simp] theorem State.setPending_mem (s : State) (es : List HostEvent) : (s.setPending es).mem = s.mem := rfl
@[simp] theorem State.setPending_v (s : State) (es : List HostEvent) : (s.setPending es).v = s.v := rfl
@[simp] theorem State.setPending_ireg (s : State) (es : List HostEvent) : (s.setPending es).ireg = s.ireg := rfl
@[simp] theorem State.setPending_pc (s : State) (es : List HostEvent) : (s.setPending es).pc = s.pc := rfl
@[simp] theorem State.setPending_sp (s : State) (es : List HostEvent) : (s.setPending es).sp = s.sp := rfl
@[simp] theorem State.setPending_stack (s : State) (es : List HostEvent) : (s.setPending es).stack = s.stack := rfl
@[simp] theorem State.setPending_fb (s : State) (es : List HostEvent) : (s.setPending es).fb = s.fb := rfl
@[simp] theorem State.setPending_dt (s : State) (es : List HostEvent) : (s.setPending es).dt = s.dt := rfl
@[simp] theorem State.setPending_st (s : State) (es : List HostEvent) : (s.setPending es).st = s.st := rfl
@[simp] theorem State.setPending_waiting (s : State) (es : List HostEvent) : (s.setPending es).waiting = s.waiting := rfl
@[simp] theorem State.setPending_waitReg (s : State) (es : List HostEvent) : (s.setPending es).waitReg = s.waitReg := rfl
@[simp] theorem State.setPending_halted (s : State) (es : List HostEvent) : (s.setPending es).halted = s.halted := rfl
@[simp] theorem State.setPending_fault (s : State) (es : List HostEvent) : (s.setPending es).fault = s.fault := rfl
@[simp] theorem State.setPending_redraw (s : State) (es : List HostEvent) : (s.setPending es).redraw = s.redraw := rfl
@[simp] theorem State.setPending_clear (s : State) (es : List HostEvent) : (s.setPending es).clear = s.clear := rfl
@[simp] theorem State.setPending_waitOut (s : State) (es : List HostEvent) : (s.setPending es).waitOut = s.waitOut := rfl
@[simp] theorem State.setPending_keys (s : State) (es : List HostEvent) : (s.setPending es).keys = s.keys := rfl
@[simp] theorem State.setPending_draws (s : State) (es : List HostEvent) : (s.setPending es).draws = s.draws := rfl
@[simp] theorem State.setPending_phase (s : State) (es : List HostEvent) : (s.setPending es).phase = s.phase := rfl
@[simp] theorem State.setPending_pending (s : State) (es : List HostEvent) : (s.setPending es).pending = es := rfl

/-! `State.showWait`. -/

@[simp] theorem State.showWait_mem (s : State) : (s.showWait).mem = s.mem := rfl
@[simp] theorem State.showWait_v (s : State) : (s.showWait).v = s.v := rfl
@[simp] theorem State.showWait_ireg (s : State) : (s.showWait).ireg = s.ireg := rfl
@[simp] theorem State.showWait_pc (s : State) : (s.showWait).pc = s.pc := rfl
@[simp] theorem State.showWait_sp (s : State) : (s.showWait).sp = s.sp := rfl
@[simp] theorem State.showWait_stack (s : State) : (s.showWait).stack = s.stack := rfl
@[simp] theorem State.showWait_fb (s : State) : (s.showWait).fb = s.fb := rfl
@[simp] theorem State.showWait_dt (s : State) : (s.showWait).dt = s.dt := rfl
@[simp] theorem State.showWait_st (s : State) : (s.showWait).st = s.st := rfl
@[simp] theorem State.showWait_waiting (s : State) : (s.showWait).waiting = s.waiting := rfl
@[simp] theorem State.showWait_waitReg (s : State) : (s.showWait).waitReg = s.waitReg := rfl
@[simp] theorem State.showWait_halted (s : State) : (s.showWait).halted = s.halted := rfl
@[simp] theorem State.showWait_fault (s : State) : (s.showWait).fault = s.fault := rfl
@[simp] theorem State.showWait_redraw (s : State) : (s.showWait).redraw = s.redraw := rfl
@[simp] theorem State.showWait_clear (s : State) : (s.showWait).clear = s.clear := rfl
@[simp] theorem State.showWait_waitOut (s : State) : (s.showWait).waitOut = s.waiting := rfl
@[simp] theorem State.showWait_keys (s : State) : (s.showWait).keys = s.keys := rfl
@[simp] theorem State.showWait_draws (s : State) : (s.showWait).draws = s.draws := rfl
@[simp] theorem State.showWait_phase (s : State) : (s.showWait).phase = s.phase := rfl
@[simp] theorem State.showWait_pending (s : State) : (s.showWait).pending = s.pending := rfl

/-! `State.endWait`. -/

@[simp] theorem State.endWait_mem (s : State) : (s.endWait).mem = s.mem := rfl
@[simp] theorem State.endWait_v (s : State) : (s.endWait).v = s.v := rfl
@[simp] theorem State.endWait_ireg (s : State) : (s.endWait).ireg = s.ireg := rfl
@[simp] theorem State.endWait_pc (s : State) : (s.endWait).pc = s.pc := rfl
@[simp] theorem State.endWait_sp (s : State) : (s.endWait).sp = s.sp := rfl
@[simp] theorem State.endWait_stack (s : State) : (s.endWait).stack = s.stack := rfl
@[simp] theorem State.endWait_fb (s : State) : (s.endWait).fb = s.fb := rfl
@[simp] theorem State.endWait_dt (s : State) : (s.endWait).dt = s.dt := rfl
@[simp] theorem State.endWait_st (s : State) : (s.endWait).st = s.st := rfl
@[simp] theorem State.endWait_waiting (s : State) : (s.endWait).waiting = false := rfl
@[simp] theorem State.endWait_waitReg (s : State) : (s.endWait).waitReg = s.waitReg := rfl
@[simp] theorem State.endWait_halted (s : State) : (s.endWait).halted = s.halted := rfl
@[simp] theorem State.endWait_fault (s : State) : (s.endWait).fault = s.fault := rfl
@[simp] theorem State.endWait_redraw (s : State) : (s.endWait).redraw = s.redraw := rfl
@[simp] theorem State.endWait_clear (s : State) : (s.endWait).clear = s.clear := rfl
@[simp] theorem State.endWait_waitOut (s : State) : (s.endWait).waitOut = false := rfl
@[simp] theorem State.endWait_keys (s : State) : (s.endWait).keys = s.keys := rfl
@[simp] theorem State.endWait_draws (s : State) : (s.endWait).draws = s.draws := rfl
@[simp] theorem State.endWait_phase (s : State) : (s.endWait).phase = s.phase := rfl
@[simp] theorem State.endWait_pending (s : State) : (s.endWait).pending = s.pending := rfl

/-! `State.closeLoad`. -/

@[simp] theorem State.closeLoad_mem (s : State) : (s.closeLoad).mem = s.mem := rfl
@[simp] theorem State.closeLoad_v (s : State) : (s.closeLoad).v = s.v := rfl
@[simp] theorem State.closeLoad_ireg (s : State) : (s.closeLoad).ireg = s.ireg := rfl
@[simp] theorem State.closeLoad_pc (s : State) : (s.closeLoad).pc = s.pc := rfl
@[simp] theorem State.closeLoad_sp (s : State) : (s.closeLoad).sp = s.sp := rfl
@[simp] theorem State.closeLoad_stack (s : State) : (s.closeLoad).stack = s.stack := rfl
@[simp] theorem State.closeLoad_fb (s : State) : (s.closeLoad).fb = s.fb := rfl
@[simp] theorem State.closeLoad_dt (s : State) : (s.closeLoad).dt = s.dt := rfl
@[simp] theorem State.closeLoad_st (s : State) : (s.closeLoad).st = s.st := rfl
@[simp] theorem State.closeLoad_waiting (s : State) : (s.closeLoad).waiting = s.waiting := rfl
@[simp] theorem State.closeLoad_waitReg (s : State) : (s.closeLoad).waitReg = s.waitReg := rfl
@[simp] theorem State.closeLoad_halted (s : State) : (s.closeLoad).halted = s.halted := rfl
@[simp] theorem State.closeLoad_fault (s : State) : (s.closeLoad).fault = s.fault := rfl
@[simp] theorem State.closeLoad_redraw (s : State) : (s.closeLoad).redraw = s.redraw := rfl
@[simp] theorem State.closeLoad_clear (s : State) : (s.closeLoad).clear = s.clear := rfl
@[simp] theorem State.closeLoad_waitOut (s : State) : (s.closeLoad).waitOut = s.waitOut := rfl
@[simp] theorem State.closeLoad_keys (s : State) : (s.closeLoad).keys = s.keys := rfl
@[simp] theorem State.closeLoad_draws (s : State) : (s.closeLoad).draws = s.draws := rfl
@[simp] theorem State.closeLoad_phase (s : State) : (s.closeLoad).phase = .loadClosed := rfl
@[simp] theorem State.closeLoad_pending (s : State) : (s.closeLoad).pending = s.pending := rfl
/-! `State.setFlag` is a write of VF. -/

theorem State.setFlag_eq (s : State) (c : Bool) : s.setFlag c = s.setReg 15 (if c then 1 else 0) := rfl
@[simp] theorem State.setFlag_mem (s : State) (c : Bool) : (s.setFlag c).mem = s.mem := rfl
@[simp] theorem State.setFlag_ireg (s : State) (c : Bool) : (s.setFlag c).ireg = s.ireg := rfl
@[simp] theorem State.setFlag_pc (s : State) (c : Bool) : (s.setFlag c).pc = s.pc := rfl
@[simp] theorem State.setFlag_sp (s : State) (c : Bool) : (s.setFlag c).sp = s.sp := rfl
@[simp] theorem State.setFlag_stack (s : State) (c : Bool) : (s.setFlag c).stack = s.stack := rfl
@[simp] theorem State.setFlag_fb (s : State) (c : Bool) : (s.setFlag c).fb = s.fb := rfl
@[simp] theorem State.setFlag_dt (s : State) (c : Bool) : (s.setFlag c).dt = s.dt := rfl
@[simp] theorem State.setFlag_st (s : State) (c : Bool) : (s.setFlag c).st = s.st := rfl
@[simp] theorem State.setFlag_waiting (s : State) (c : Bool) : (s.setFlag c).waiting = s.waiting := rfl
@[simp] theorem State.setFlag_waitReg (s : State) (c : Bool) : (s.setFlag c).waitReg = s.waitReg := rfl
@[simp] theorem State.setFlag_halted (s : State) (c : Bool) : (s.setFlag c).halted = s.halted := rfl
@[simp] theorem State.setFlag_fault (s : State) (c : Bool) : (s.setFlag c).fault = s.fault := rfl
@[simp] theorem State.setFlag_redraw (s : State) (c : Bool) : (s.setFlag c).redraw = s.redraw := rfl
@[simp] theorem State.setFlag_clear (s : State) (c : Bool) : (s.setFlag c).clear = s.clear := rfl
@[simp] theorem State.setFlag_waitOut (s : State) (c : Bool) : (s.setFlag c).waitOut = s.waitOut := rfl
@[simp] theorem State.setFlag_keys (s : State) (c : Bool) : (s.setFlag c).keys = s.keys := rfl
@[simp] theorem State.setFlag_draws (s : State) (c : Bool) : (s.setFlag c).draws = s.draws := rfl
@[simp] theorem State.setFlag_phase (s : State) (c : Bool) : (s.setFlag c).phase = s.phase := rfl
@[simp] theorem State.setFlag_pending (s : State) (c : Bool) : (s.setFlag c).pending = s.pending := rfl

/-! `State.advanceI` writes at most `I`. -/

@[simp] theorem State.advanceI_mem (s : State) (c : Bool) (x : Nibble) : (s.advanceI c x).mem = s.mem := by
  cases c <;> rfl
@[simp] theorem State.advanceI_v (s : State) (c : Bool) (x : Nibble) : (s.advanceI c x).v = s.v := by
  cases c <;> rfl
@[simp] theorem State.advanceI_pc (s : State) (c : Bool) (x : Nibble) : (s.advanceI c x).pc = s.pc := by
  cases c <;> rfl
@[simp] theorem State.advanceI_sp (s : State) (c : Bool) (x : Nibble) : (s.advanceI c x).sp = s.sp := by
  cases c <;> rfl
@[simp] theorem State.advanceI_stack (s : State) (c : Bool) (x : Nibble) : (s.advanceI c x).stack = s.stack := by
  cases c <;> rfl
@[simp] theorem State.advanceI_fb (s : State) (c : Bool) (x : Nibble) : (s.advanceI c x).fb = s.fb := by
  cases c <;> rfl
@[simp] theorem State.advanceI_dt (s : State) (c : Bool) (x : Nibble) : (s.advanceI c x).dt = s.dt := by
  cases c <;> rfl
@[simp] theorem State.advanceI_st (s : State) (c : Bool) (x : Nibble) : (s.advanceI c x).st = s.st := by
  cases c <;> rfl
@[simp] theorem State.advanceI_waiting (s : State) (c : Bool) (x : Nibble) : (s.advanceI c x).waiting = s.waiting := by
  cases c <;> rfl
@[simp] theorem State.advanceI_waitReg (s : State) (c : Bool) (x : Nibble) : (s.advanceI c x).waitReg = s.waitReg := by
  cases c <;> rfl
@[simp] theorem State.advanceI_halted (s : State) (c : Bool) (x : Nibble) : (s.advanceI c x).halted = s.halted := by
  cases c <;> rfl
@[simp] theorem State.advanceI_fault (s : State) (c : Bool) (x : Nibble) : (s.advanceI c x).fault = s.fault := by
  cases c <;> rfl
@[simp] theorem State.advanceI_redraw (s : State) (c : Bool) (x : Nibble) : (s.advanceI c x).redraw = s.redraw := by
  cases c <;> rfl
@[simp] theorem State.advanceI_clear (s : State) (c : Bool) (x : Nibble) : (s.advanceI c x).clear = s.clear := by
  cases c <;> rfl
@[simp] theorem State.advanceI_waitOut (s : State) (c : Bool) (x : Nibble) : (s.advanceI c x).waitOut = s.waitOut := by
  cases c <;> rfl
@[simp] theorem State.advanceI_keys (s : State) (c : Bool) (x : Nibble) : (s.advanceI c x).keys = s.keys := by
  cases c <;> rfl
@[simp] theorem State.advanceI_draws (s : State) (c : Bool) (x : Nibble) : (s.advanceI c x).draws = s.draws := by
  cases c <;> rfl
@[simp] theorem State.advanceI_phase (s : State) (c : Bool) (x : Nibble) : (s.advanceI c x).phase = s.phase := by
  cases c <;> rfl
@[simp] theorem State.advanceI_pending (s : State) (c : Bool) (x : Nibble) : (s.advanceI c x).pending = s.pending := by
  cases c <;> rfl
@[simp] theorem State.advanceI_ireg (s : State) (c : Bool) (x : Nibble) :
    (s.advanceI c x).ireg = if c then BitVec.ofNat 16 (s.ireg.toNat + x.toNat + 1) else s.ireg := by
  cases c <;> rfl

/-! Reading registers after a write (R12, R23). -/

theorem State.reg_congr {s t : State} (h : t.v = s.v) (k : Nibble) : t.reg k = s.reg k := by
  simp only [State.reg, h]

@[simp] theorem State.reg_setReg_self (s : State) (x : Nibble) (b : Byte) : (s.setReg x b).reg x = b := by
  simp [State.reg, State.setReg]

theorem State.reg_setReg_ne (s : State) {x k : Nibble} (b : Byte) (h : k ≠ x) : (s.setReg x b).reg k = s.reg k := by
  have h' : x.toNat ≠ k.toNat := fun e => h (BitVec.eq_of_toNat_eq e.symm)
  simp [State.reg, State.setReg, Vector.getElem_set_ne _ _ h']

theorem State.reg_setReg (s : State) (x k : Nibble) (b : Byte) :
    (s.setReg x b).reg k = if k = x then b else s.reg k := by
  by_cases h : k = x
  · subst h; simp
  · simp [h, State.reg_setReg_ne s b h]

@[simp] theorem State.reg_setFlag_vf (s : State) (c : Bool) : (s.setFlag c).reg 15#4 = if c then 1#8 else 0#8 :=
  State.reg_setReg_self ..

theorem State.reg_setFlag_ne (s : State) {k : Nibble} (c : Bool) (h : k ≠ 15) : (s.setFlag c).reg k = s.reg k :=
  State.reg_setReg_ne s _ h

@[simp] theorem State.reg_setI (s : State) (w : Word) (k : Nibble) : (s.setI w).reg k = s.reg k := rfl
@[simp] theorem State.reg_setMem (s : State) (m : Memory) (k : Nibble) : (s.setMem m).reg k = s.reg k := rfl
@[simp] theorem State.reg_setPc (s : State) (w : Word) (k : Nibble) : (s.setPc w).reg k = s.reg k := rfl
@[simp] theorem State.reg_advance (s : State) (k : Nibble) : s.advance.reg k = s.reg k := rfl
@[simp] theorem State.reg_skipIf (s : State) (c : Bool) (k : Nibble) : (s.skipIf c).reg k = s.reg k := rfl
@[simp] theorem State.reg_push (s : State) (w : Word) (k : Nibble) : (s.push w).reg k = s.reg k := rfl
@[simp] theorem State.reg_pop (s : State) (k : Nibble) : s.pop.reg k = s.reg k := rfl
@[simp] theorem State.reg_takeFatal (s : State) (c : Cause) (w info : Word) (k : Nibble) :
    (s.takeFatal c w info).reg k = s.reg k := rfl
@[simp] theorem State.reg_beginCycle (s : State) (k : Nibble) : s.beginCycle.reg k = s.reg k := rfl
@[simp] theorem State.reg_advanceI (s : State) (c : Bool) (x k : Nibble) : (s.advanceI c x).reg k = s.reg k := by
  cases c <;> rfl

@[simp] theorem State.reg_setFb (s : State) (fb : Vector (BitVec 64) 32) (k : Nibble) : (s.setFb fb).reg k = s.reg k := rfl
@[simp] theorem State.reg_setOutputs (s : State) (a b : Bool) (k : Nibble) : (s.setOutputs a b).reg k = s.reg k := rfl
@[simp] theorem State.reg_setTimers (s : State) (a b : Byte) (k : Nibble) : (s.setTimers a b).reg k = s.reg k := rfl
@[simp] theorem State.reg_startWait (s : State) (x : Nibble) (k : Nibble) : (s.startWait x).reg k = s.reg k := rfl
@[simp] theorem State.reg_countDraw (s : State) (k : Nibble) : (s.countDraw).reg k = s.reg k := rfl
@[simp] theorem State.reg_setKeys (s : State) (ks : BitVec 16) (k : Nibble) : (s.setKeys ks).reg k = s.reg k := rfl
@[simp] theorem State.reg_setPending (s : State) (es : List HostEvent) (k : Nibble) : (s.setPending es).reg k = s.reg k := rfl
@[simp] theorem State.reg_showWait (s : State) (k : Nibble) : (s.showWait).reg k = s.reg k := rfl
@[simp] theorem State.reg_endWait (s : State) (k : Nibble) : (s.endWait).reg k = s.reg k := rfl
@[simp] theorem State.reg_closeLoad (s : State) (k : Nibble) : (s.closeLoad).reg k = s.reg k := rfl

/-! The call stack (R27). -/

theorem State.stackSlot_push_top (s : State) (w : Word) (h : s.sp.toNat < 16) :
    (s.push w).stackSlot (s.sp.toNat + 1) = w := by
  simp [State.stackSlot, Vector.getElem?_setIfInBounds_self_of_lt h]

theorem State.stackSlot_push_ne (s : State) (w : Word) {k : Nat} (h1 : 1 ≤ k) (h : k ≠ s.sp.toNat + 1) :
    (s.push w).stackSlot k = s.stackSlot k := by
  have : s.sp.toNat ≠ k - 1 := by omega
  simp [State.stackSlot, Vector.getElem?_setIfInBounds_ne this]

/-! What the host reads. -/

/-- Every element of the frame is the pixel of its row and column, as 0 or 1 (R261). -/
theorem State.getElem_frameBytes (s : State) (k : Nat) (h : k < 2048) :
    s.frameBytes[k] = if s.pixel (k % 64) (k / 64) then 1 else 0 := by
  simp [State.frameBytes]

/-- Pixel `(x, y)` is element `y * 64 + x` of the frame (R30, R261). -/
theorem State.frameBytes_pixel (s : State) {x y : Nat} (hx : x < 64) (hy : y < 32) :
    s.frameBytes[y * 64 + x] = if s.pixel x y then 1 else 0 := by
  rw [State.getElem_frameBytes, show (y * 64 + x) % 64 = x by omega, show (y * 64 + x) / 64 = y by omega]

end Sys2Proof.Machine
end

