-- ==== Sys2Proof/Laws/Exec.lean ====
section
/-! SUPPORT. What `exec` can answer, said once for all instructions: it raises, or it runs and leaves the fault state and
the host's side alone. -/

namespace Sys2Proof.Machine

/-- `t` is `s` with a fatal condition of an instruction taken (R249). -/
def Raised (s t : State) : Prop :=
  ∃ c info, c ≠ Cause.none ∧ c ≠ Cause.fetchOutOfRange ∧ t = s.takeFatal c s.fetchedWord info

/-- What every instruction that raises nothing leaves alone, and the invariants it keeps. -/
structure Ran (s t : State) : Prop where
  halted : t.halted = s.halted
  fault : t.fault = s.fault
  waitOut : t.waitOut = s.waitOut
  keys : t.keys = s.keys
  phase : t.phase = s.phase
  pending : t.pending = s.pending
  wf : Memory.wf s.mem = true → Memory.wf t.mem = true
  sp : s.sp.toNat ≤ 16 → t.sp.toNat ≤ 16

theorem raised_of_raise {c : Cause} {n : Nat} {s t : State} (hn : c ≠ Cause.none) (hf : c ≠ Cause.fetchOutOfRange)
    (h : raise c n s = .next t) : Raised s t := by
  cases h; exact ⟨c, _, hn, hf, rfl⟩

theorem State.length_regBlock (s : State) (x : Nibble) : (s.regBlock x).length = x.toNat + 1 := by
  have := x.isLt
  simp [State.regBlock]; omega

/-- A range-checked transfer raises, or its block lies in memory and it runs (R180). -/
theorem checked_next {n : Nat} {s t u : State} (h : checked n s t = .next u) :
    Raised s u ∨ ((n = 0 ∨ s.ireg.toNat + n ≤ 0x1000) ∧ u = t) := by
  unfold checked at h
  split at h
  · exact .inl (raised_of_raise (by decide) (by decide) h)
  · next e => cases h; exact .inr ⟨firstOutOfRange_eq_none_iff.1 e, rfl⟩

/-- An instruction that answers a next state raised or ran. -/
theorem exec_next {i : Instr} {s t : State} (h : exec i s = .next t) : Raised s t ∨ Ran s t := by
  cases i with
  | call nnn =>
    simp only [exec, execCall] at h
    split at h
    · cases h
      exact .inr ⟨rfl, rfl, rfl, rfl, rfl, rfl, id, fun _ => by simp [BitVec.toNat_add]; omega⟩
    · split at h
      · exact .inl (raised_of_raise (by decide) (by decide) h)
      · cases h
  | ret =>
    simp only [exec, execRet] at h
    split at h
    · exact .inl (raised_of_raise (by decide) (by decide) h)
    · split at h
      · cases h
        exact .inr ⟨rfl, rfl, rfl, rfl, rfl, rfl, id, fun _ => by simp [BitVec.toNat_sub]; omega⟩
      · cases h
  | drw x y n =>
    simp only [exec, execDrw, drawAt] at h
    split at h
    · exact .inl (raised_of_raise (by decide) (by decide) h)
    · unfold drawSprite at h
      split at h
      · cases h; exact .inr ⟨rfl, rfl, rfl, rfl, rfl, rfl, id, id⟩
      · split at h
        · exact .inl (raised_of_raise (by decide) (by decide) h)
        · cases h; exact .inr ⟨rfl, rfl, rfl, rfl, rfl, rfl, id, id⟩
  | skp x | sknp x =>
    simp only [exec, execSkp, execSknp, skipOnKey] at h
    split at h
    · exact .inl (raised_of_raise (by decide) (by decide) h)
    · cases h; exact .inr ⟨rfl, rfl, rfl, rfl, rfl, rfl, id, id⟩
  | ldF x =>
    simp only [exec, execLdF] at h
    split at h
    · exact .inl (raised_of_raise (by decide) (by decide) h)
    · cases h; exact .inr ⟨rfl, rfl, rfl, rfl, rfl, rfl, id, id⟩
  | ldB x =>
    refine (checked_next h).imp_right ?_
    rintro ⟨hb, rfl⟩
    exact ⟨rfl, rfl, rfl, rfl, rfl, rfl, fun w => Memory.wf_writeBytes w _ (by simp [bcdDigits, State.effAddr]; omega), id⟩
  | storeRegs x =>
    refine (checked_next h).imp_right ?_
    rintro ⟨hb, rfl⟩
    exact ⟨by simp, by simp, by simp, by simp, by simp, by simp, fun w => by
      simpa using Memory.wf_writeBytes w _ (by rw [State.length_regBlock, State.effAddr]; omega), by simp⟩
  | loadRegs x =>
    refine (checked_next h).imp_right ?_
    rintro ⟨hb, rfl⟩
    exact ⟨by simp, by simp, by simp, by simp, by simp, by simp, by simp, by simp⟩
  | _ => cases h; exact .inr ⟨rfl, rfl, rfl, rfl, rfl, rfl, id, id⟩

end Sys2Proof.Machine
end

