-- ==== Sys2Proof/Laws/PerInstr.lean ====
section
/-! SUPPORT. For every instruction: its word matches its row of spec/opcode_table.json under the row's own mask. The masks
and patterns are the table's; nothing here mentions the decoder. -/

namespace Sys2Proof.Laws.OpcodeRow

/-- The `mask` of an instruction's row. -/
def mask : Instr → Word
  | .cls | .ret => 0xFFFF
  | .jp _ | .call _ | .ldI _ | .jpV0 _ | .seByte _ _ | .sneByte _ _ | .seReg _ _ _ | .ldByte _ _ | .addByte _ _
  | .sneReg _ _ _ | .rnd _ _ | .drw _ _ _ => 0xF000
  | .ldReg _ _ | .orReg _ _ | .andReg _ _ | .xorReg _ _ | .addReg _ _ | .sub _ _ | .shr _ _ | .subn _ _
  | .shl _ _ => 0xF00F
  | .skp _ | .sknp _ | .ldVxDt _ | .ldVxK _ | .ldDtVx _ | .ldStVx _ | .addI _ | .ldF _ | .ldB _ | .storeRegs _
  | .loadRegs _ => 0xF0FF

/-- The `match` of an instruction's row. -/
def pattern : Instr → Word
  | .cls => 0x00E0
  | .ret => 0x00EE
  | .jp _ => 0x1000
  | .call _ => 0x2000
  | .seByte _ _ => 0x3000
  | .sneByte _ _ => 0x4000
  | .seReg _ _ _ => 0x5000
  | .ldByte _ _ => 0x6000
  | .addByte _ _ => 0x7000
  | .ldReg _ _ => 0x8000
  | .orReg _ _ => 0x8001
  | .andReg _ _ => 0x8002
  | .xorReg _ _ => 0x8003
  | .addReg _ _ => 0x8004
  | .sub _ _ => 0x8005
  | .shr _ _ => 0x8006
  | .subn _ _ => 0x8007
  | .shl _ _ => 0x800E
  | .sneReg _ _ _ => 0x9000
  | .ldI _ => 0xA000
  | .jpV0 _ => 0xB000
  | .rnd _ _ => 0xC000
  | .drw _ _ _ => 0xD000
  | .skp _ => 0xE09E
  | .sknp _ => 0xE0A1
  | .ldVxDt _ => 0xF007
  | .ldVxK _ => 0xF00A
  | .ldDtVx _ => 0xF015
  | .ldStVx _ => 0xF018
  | .addI _ => 0xF01E
  | .ldF _ => 0xF029
  | .ldB _ => 0xF033
  | .storeRegs _ => 0xF055
  | .loadRegs _ => 0xF065

/-- An instruction's word matches its row of the opcode table. -/
def Statement (i : Instr) : Prop := encode i &&& mask i = pattern i

theorem and_ones (c : Nibble) : c &&& 0xF#4 = c := BitVec.and_allOnes
theorem and_ones8 (b : Byte) : b &&& 0xFF#8 = b := BitVec.and_allOnes

theorem xb_masked (c x : Nibble) (nn : Byte) : wordXB c x nn &&& 0xF000 = wordXB c 0 0 := by
  rw [wordXB, show (0xF000 : Word) = 0xF#4 ++ 0#4 ++ 0#8 by decide, BitVec.and_append, BitVec.and_append, and_ones,
    BitVec.and_zero, BitVec.and_zero]
  rfl
theorem xb_masked_low (c x : Nibble) (nn : Byte) : wordXB c x nn &&& 0xF0FF = wordXB c 0 nn := by
  rw [wordXB, show (0xF0FF : Word) = 0xF#4 ++ 0#4 ++ 0xFF#8 by decide, BitVec.and_append, BitVec.and_append, and_ones,
    and_ones8, BitVec.and_zero]
  rfl
theorem a_masked (c : Nibble) (nnn : Addr) : wordA c nnn &&& 0xF000 = wordA c 0 := by
  rw [wordA, show (0xF000 : Word) = 0xF#4 ++ 0#12 by decide, BitVec.and_append, and_ones, BitVec.and_zero]
  rfl
theorem xyn_masked (c x y n : Nibble) : wordXYN c x y n &&& 0xF000 = wordXYN c 0 0 0 := by
  rw [wordXYN, show (0xF000 : Word) = 0xF#4 ++ 0#4 ++ 0#4 ++ 0#4 by decide, BitVec.and_append, BitVec.and_append,
    BitVec.and_append, and_ones, BitVec.and_zero, BitVec.and_zero, BitVec.and_zero]
  rfl
theorem xyn_masked_low (c x y n : Nibble) : wordXYN c x y n &&& 0xF00F = wordXYN c 0 0 n := by
  rw [wordXYN, show (0xF00F : Word) = 0xF#4 ++ 0#4 ++ 0#4 ++ 0xF#4 by decide, BitVec.and_append, BitVec.and_append,
    BitVec.and_append, and_ones, and_ones, BitVec.and_zero, BitVec.and_zero]
  rfl

theorem cls : Statement .cls := by unfold Statement; decide
theorem ret : Statement .ret := by unfold Statement; decide
theorem jp (nnn : Addr) : Statement (.jp nnn) := a_masked ..
theorem call (nnn : Addr) : Statement (.call nnn) := a_masked ..
theorem seByte (x : Nibble) (nn : Byte) : Statement (.seByte x nn) := xb_masked ..
theorem sneByte (x : Nibble) (nn : Byte) : Statement (.sneByte x nn) := xb_masked ..
theorem seReg (x y n : Nibble) : Statement (.seReg x y n) := xyn_masked ..
theorem ldByte (x : Nibble) (nn : Byte) : Statement (.ldByte x nn) := xb_masked ..
theorem addByte (x : Nibble) (nn : Byte) : Statement (.addByte x nn) := xb_masked ..
theorem ldReg (x y : Nibble) : Statement (.ldReg x y) := xyn_masked_low ..
theorem orReg (x y : Nibble) : Statement (.orReg x y) := xyn_masked_low ..
theorem andReg (x y : Nibble) : Statement (.andReg x y) := xyn_masked_low ..
theorem xorReg (x y : Nibble) : Statement (.xorReg x y) := xyn_masked_low ..
theorem addReg (x y : Nibble) : Statement (.addReg x y) := xyn_masked_low ..
theorem sub (x y : Nibble) : Statement (.sub x y) := xyn_masked_low ..
theorem shr (x y : Nibble) : Statement (.shr x y) := xyn_masked_low ..
theorem subn (x y : Nibble) : Statement (.subn x y) := xyn_masked_low ..
theorem shl (x y : Nibble) : Statement (.shl x y) := xyn_masked_low ..
theorem sneReg (x y n : Nibble) : Statement (.sneReg x y n) := xyn_masked ..
theorem ldI (nnn : Addr) : Statement (.ldI nnn) := a_masked ..
theorem jpV0 (nnn : Addr) : Statement (.jpV0 nnn) := a_masked ..
theorem rnd (x : Nibble) (nn : Byte) : Statement (.rnd x nn) := xb_masked ..
theorem drw (x y n : Nibble) : Statement (.drw x y n) := xyn_masked ..
theorem skp (x : Nibble) : Statement (.skp x) := xb_masked_low ..
theorem sknp (x : Nibble) : Statement (.sknp x) := xb_masked_low ..
theorem ldVxDt (x : Nibble) : Statement (.ldVxDt x) := xb_masked_low ..
theorem ldVxK (x : Nibble) : Statement (.ldVxK x) := xb_masked_low ..
theorem ldDtVx (x : Nibble) : Statement (.ldDtVx x) := xb_masked_low ..
theorem ldStVx (x : Nibble) : Statement (.ldStVx x) := xb_masked_low ..
theorem addI (x : Nibble) : Statement (.addI x) := xb_masked_low ..
theorem ldF (x : Nibble) : Statement (.ldF x) := xb_masked_low ..
theorem ldB (x : Nibble) : Statement (.ldB x) := xb_masked_low ..
theorem storeRegs (x : Nibble) : Statement (.storeRegs x) := xb_masked_low ..
theorem loadRegs (x : Nibble) : Statement (.loadRegs x) := xb_masked_low ..

end Sys2Proof.Laws.OpcodeRow
end

