-- ==== Sys2Proof/Laws/Sprite.lean ====
section
/-! SUPPORT. The XOR blit: which pixels a sprite toggles, that it toggles none twice, and the collision flag. -/

namespace Sys2Proof.Machine

/-- A pixel of a framebuffer; false outside the grid. -/
def fbPixel (fb : Vector (BitVec 64) 32) (x y : Nat) : Bool := (fb[y]?.getD 0).getLsbD x

theorem State.pixel_eq (s : State) (x y : Nat) : s.pixel x y = fbPixel s.fb x y := rfl

theorem fbPixel_togglePixel (fb : Vector (BitVec 64) 32) {x y : Nat} (hx : x < 64) (hy : y < 32) (px py : Nat) :
    fbPixel (togglePixel fb x y) px py = (fbPixel fb px py ^^ decide (px = x ∧ py = y)) := by
  unfold fbPixel togglePixel
  by_cases e : y = py
  · subst e
    rw [Vector.getElem?_setIfInBounds_self_of_lt hy, Option.getD_some, BitVec.getLsbD_xor, BitVec.getLsbD_twoPow]
    by_cases e2 : px = x
    · subst e2; simp [hx]
    · simp [e2, Ne.symm e2]
  · rw [Vector.getElem?_setIfInBounds_ne e]
    simp [Ne.symm e]

/-! The bits of a sprite. -/

theorem mem_spriteRow {row : Byte} {x0 y : Nat} {b : SpriteBit} :
    b ∈ spriteRow row x0 y ↔ ∃ c, c < 8 ∧ b = ⟨x0 + c, y, row.getLsbD (7 - c)⟩ := by
  constructor
  · intro h
    simp only [spriteRow, List.mem_cons, List.not_mem_nil, or_false] at h
    rcases h with h | h | h | h | h | h | h | h
    · exact ⟨0, by omega, h⟩
    · exact ⟨1, by omega, h⟩
    · exact ⟨2, by omega, h⟩
    · exact ⟨3, by omega, h⟩
    · exact ⟨4, by omega, h⟩
    · exact ⟨5, by omega, h⟩
    · exact ⟨6, by omega, h⟩
    · exact ⟨7, by omega, h⟩
  · rintro ⟨c, hc, rfl⟩
    interval_cases c <;> simp [spriteRow]

theorem mem_spriteBits {rows : List Byte} {x0 y0 : Nat} {b : SpriteBit} :
    b ∈ spriteBits rows x0 y0 ↔
      ∃ r, ∃ h : r < rows.length, ∃ c, c < 8 ∧ b = ⟨x0 + c, y0 + r, rows[r].getLsbD (7 - c)⟩ := by
  induction rows generalizing y0 with
  | nil => simp [spriteBits]
  | cons row rows ih =>
    rw [spriteBits, List.mem_append, mem_spriteRow, ih]
    constructor
    · rintro (⟨c, hc, h⟩ | ⟨r, hr, c, hc, h⟩)
      · exact ⟨0, by simp, c, hc, h⟩
      · exact ⟨r + 1, by simpa using hr, c, hc, by simpa [Nat.add_assoc, Nat.add_comm 1] using h⟩
    · rintro ⟨r, hr, c, hc, h⟩
      cases r with
      | zero => exact .inl ⟨c, hc, h⟩
      | succ r =>
        exact .inr ⟨r, by simpa using hr, c, hc, by simpa [Nat.add_assoc, Nat.add_comm 1] using h⟩

/-- No two bits of a sprite have the same coordinates. -/
theorem spriteBits_pairwise (rows : List Byte) (x0 y0 : Nat) :
    (spriteBits rows x0 y0).Pairwise fun b b' => b.px ≠ b'.px ∨ b.py ≠ b'.py := by
  induction rows generalizing y0 with
  | nil => exact List.Pairwise.nil
  | cons row rows ih =>
    rw [spriteBits, List.pairwise_append]
    refine ⟨?_, ih _, ?_⟩
    · simp [spriteRow]
    · intro b hb b' hb'
      obtain ⟨c, -, rfl⟩ := mem_spriteRow.1 hb
      obtain ⟨r, -, c', -, rfl⟩ := mem_spriteBits.1 hb'
      exact .inr (by simp only; omega)

/-- The bits DRW draws, as R173 places them. -/
theorem mem_drawBits {s : State} {x y n : Nibble} {b : SpriteBit} :
    b ∈ s.drawBits x y n ↔ ∃ r c, r < n.toNat ∧ c < 8 ∧
      b = ⟨(s.reg x).toNat + c, (s.reg y).toNat + r, s.spriteBit r c⟩ := by
  rw [State.drawBits, mem_spriteBits]
  simp only [Memory.length_readBytes, Memory.getElem_readBytes, State.effAddr, Nat.add_zero, State.spriteBit,
    State.byteAt, exists_prop]
  constructor
  · rintro ⟨r, hr, c, hc, h⟩; exact ⟨r, c, hr, hc, h⟩
  · rintro ⟨r, c, hr, hc, h⟩; exact ⟨r, hr, c, hc, h⟩

/-! The pixels a sprite toggles. -/

/-- The pixel a sprite bit toggles, if any. -/
def bitTarget (edge : SpriteEdge) (b : SpriteBit) : Option (Nat × Nat) :=
  if b.on then edgePixel edge b.px b.py else none

theorem edgePixel_eq_some {edge : SpriteEdge} {qx qy px py : Nat} :
    edgePixel edge qx qy = some (px, py) ↔ LandsOn edge qx qy px py := by
  unfold edgePixel outOfBounds LandsOn
  by_cases h : 64 ≤ qx ∨ 32 ≤ qy
  · rw [if_pos (by simpa using h)]
    cases edge <;> simp <;> omega
  · rw [if_neg (by simpa using h)]
    push Not at h
    cases edge <;> simp <;> omega

theorem LandsOn.inGrid {edge : SpriteEdge} {qx qy px py : Nat} (h : LandsOn edge qx qy px py) : px < 64 ∧ py < 32 := by
  unfold LandsOn at h; omega

theorem blitBit_eq (edge : SpriteEdge) (d : Blit) (b : SpriteBit) :
    blitBit edge d b =
      match bitTarget edge b with
      | some (x, y) => { fb := togglePixel d.fb x y, collision := d.collision || fbPixel d.fb x y }
      | none => d := by
  unfold blitBit bitTarget
  cases b.on <;> rfl

/-- Toggling pixels, none twice: each is flipped, the others stay, and the collision is whether one was set. -/
theorem foldl_blitBit (edge : SpriteEdge) (bits : List SpriteBit)
    (hnd : (bits.filterMap (bitTarget edge)).Nodup) (d : Blit) :
    (∀ px py, fbPixel (bits.foldl (blitBit edge) d).fb px py =
      (fbPixel d.fb px py ^^ decide ((px, py) ∈ bits.filterMap (bitTarget edge)))) ∧
    ((bits.foldl (blitBit edge) d).collision = true ↔
      d.collision = true ∨ ∃ p ∈ bits.filterMap (bitTarget edge), fbPixel d.fb p.1 p.2 = true) := by
  induction bits generalizing d with
  | nil => simp
  | cons b bits ih =>
    rw [List.foldl_cons, blitBit_eq]
    cases hb : bitTarget edge b with
    | none =>
      rw [List.filterMap_cons_none hb] at hnd ⊢
      exact ih hnd d
    | some p =>
      obtain ⟨x, y⟩ := p
      rw [List.filterMap_cons_some hb] at hnd ⊢
      obtain ⟨hni, hnd⟩ := List.nodup_cons.1 hnd
      have hg : x < 64 ∧ y < 32 := by
        unfold bitTarget at hb
        split at hb
        · exact (edgePixel_eq_some.1 hb).inGrid
        · cases hb
      obtain ⟨h1, h2⟩ := ih hnd { fb := togglePixel d.fb x y, collision := d.collision || fbPixel d.fb x y }
      refine ⟨fun px py => ?_, ?_⟩
      · rw [h1, fbPixel_togglePixel _ hg.1 hg.2]
        by_cases e : (px, py) = (x, y)
        · have : px = x ∧ py = y := by simpa using e
          simp [this, hni]
        · have e' : ¬(px = x ∧ py = y) := by simpa using e
          simp [e, e']
      · rw [h2]
        have key : ∀ p ∈ bits.filterMap (bitTarget edge),
            fbPixel (togglePixel d.fb x y) p.1 p.2 = fbPixel d.fb p.1 p.2 := by
          intro p hp
          have : ¬(p.1 = x ∧ p.2 = y) := by
            rintro ⟨rfl, rfl⟩; exact hni hp
          rw [fbPixel_togglePixel _ hg.1 hg.2]
          simp [this]
        simp only [Bool.or_eq_true, List.mem_cons, exists_eq_or_imp, or_assoc]
        refine or_congr_right (or_congr_right ?_)
        exact exists_congr fun p => and_congr_right fun hp => by rw [key p hp]

/-- A sprite of at most 16 rows toggles no pixel twice (R175). -/
theorem targets_nodup (edge : SpriteEdge) (rows : List Byte) (hr : rows.length ≤ 16) (x0 y0 : Nat) :
    ((spriteBits rows x0 y0).filterMap (bitTarget edge)).Nodup := by
  rw [List.Nodup, List.pairwise_filterMap]
  refine (spriteBits_pairwise rows x0 y0).imp_of_mem ?_
  intro b b' hb hb' hne p hp p' hp' e
  subst e
  obtain ⟨r, h1, c, h2, rfl⟩ := mem_spriteBits.1 hb
  obtain ⟨r', h1', c', h2', rfl⟩ := mem_spriteBits.1 hb'
  obtain ⟨px, py⟩ := p
  have l1 : LandsOn edge (x0 + c) (y0 + r) px py := by
    unfold bitTarget at hp
    split at hp
    · exact edgePixel_eq_some.1 hp
    · cases hp
  have l2 : LandsOn edge (x0 + c') (y0 + r') px py := by
    unfold bitTarget at hp'
    split at hp'
    · exact edgePixel_eq_some.1 hp'
    · cases hp'
  simp only at hne
  unfold LandsOn at l1 l2
  omega

/-- The pixels DRW toggles are the covered ones. -/
theorem mem_targets_drawBits {edge : SpriteEdge} {s : State} {x y n : Nibble} {px py : Nat} :
    (px, py) ∈ (s.drawBits x y n).filterMap (bitTarget edge) ↔ Covers edge s x y n px py := by
  rw [List.mem_filterMap]
  constructor
  · rintro ⟨b, hb, ht⟩
    obtain ⟨r, c, hr, hc, rfl⟩ := mem_drawBits.1 hb
    unfold bitTarget at ht
    split at ht
    · next e => exact ⟨r, c, hr, hc, e, edgePixel_eq_some.1 ht⟩
    · cases ht
  · rintro ⟨r, c, hr, hc, e, hl⟩
    refine ⟨_, mem_drawBits.2 ⟨r, c, hr, hc, rfl⟩, ?_⟩
    rw [bitTarget, if_pos e]
    exact edgePixel_eq_some.2 hl

/-- What a draw leaves in the framebuffer, and its collision flag (R172, R174). -/
theorem blit_drawBits (edge : SpriteEdge) (s : State) (x y n : Nibble) :
    (∀ px py, Covers edge s x y n px py → fbPixel (blit edge s.fb (s.drawBits x y n)).fb px py = !s.pixel px py) ∧
    (∀ px py, ¬Covers edge s x y n px py → fbPixel (blit edge s.fb (s.drawBits x y n)).fb px py = s.pixel px py) ∧
    ((blit edge s.fb (s.drawBits x y n)).collision = true ↔
      ∃ px py, Covers edge s x y n px py ∧ s.pixel px py = true) := by
  have hn : (Memory.readBytes s.mem (s.effAddr 0) n.toNat).length ≤ 16 := by
    rw [Memory.length_readBytes]; exact Nat.le_of_lt n.isLt
  obtain ⟨h1, h2⟩ := foldl_blitBit edge (s.drawBits x y n) (targets_nodup edge _ hn _ _) { fb := s.fb, collision := false }
  refine ⟨fun px py h => ?_, fun px py h => ?_, ?_⟩
  · rw [blit, h1, decide_eq_true (mem_targets_drawBits.2 h), State.pixel_eq]; simp
  · rw [blit, h1, decide_eq_false (fun e => h (mem_targets_drawBits.1 e)), State.pixel_eq]; simp
  · rw [blit, h2]
    constructor
    · rintro (h | ⟨⟨px, py⟩, hp, h⟩)
      · cases h
      · exact ⟨px, py, mem_targets_drawBits.1 hp, h⟩
    · rintro ⟨px, py, hp, h⟩
      exact .inr ⟨(px, py), mem_targets_drawBits.2 hp, h⟩

/-- No set bit is out of bounds exactly when none is off screen. -/
theorem firstOffending_drawBits_eq_none {s : State} {x y n : Nibble} :
    firstOffending (s.drawBits x y n) = none ↔ ∀ r c, ¬OffScreen s x y n r c := by
  rw [firstOffending, List.find?_eq_none]
  constructor
  · rintro h r c ⟨hr, hc, hb, ho⟩
    have := h _ (mem_drawBits.2 ⟨r, c, hr, hc, rfl⟩)
    simp [outOfBounds, hb] at this
    omega
  · intro h b hb e
    obtain ⟨r, c, hr, hc, rfl⟩ := mem_drawBits.1 hb
    simp [outOfBounds] at e
    exact h r c ⟨hr, hc, e.2, e.1⟩

/-- A sprite's bits come in row, then column order (R246). -/
theorem spriteBits_sorted (rows : List Byte) (x0 y0 : Nat) :
    (spriteBits rows x0 y0).Pairwise fun b b' => b.py < b'.py ∨ (b.py = b'.py ∧ b.px < b'.px) := by
  induction rows generalizing y0 with
  | nil => exact List.Pairwise.nil
  | cons row rows ih =>
    rw [spriteBits, List.pairwise_append]
    refine ⟨by simp [spriteRow], ih _, ?_⟩
    intro b hb b' hb'
    obtain ⟨c, -, rfl⟩ := mem_spriteRow.1 hb
    obtain ⟨r, -, c', -, rfl⟩ := mem_spriteBits.1 hb'
    exact .inl (by simp only; omega)

/-- In a list sorted by an asymmetric order, the least member that satisfies `p` is the first one found. -/
theorem find_eq_some_of_least {α : Type} {R : α → α → Prop} (hR : ∀ a b, R a b → ¬R b a) {p : α → Bool} {b : α} (hp : p b = true)
    (l : List α) (hl : l.Pairwise R) (hb : b ∈ l) (hmin : ∀ a ∈ l, p a = true → a = b ∨ R b a) : l.find? p = some b := by
  induction l with
  | nil => cases hb
  | cons a l ih =>
    obtain ⟨h1, h2⟩ := List.pairwise_cons.1 hl
    rcases List.mem_cons.1 hb with rfl | hb'
    · exact List.find?_cons_of_pos hp
    · by_cases ha : p a = true
      · rcases hmin a List.mem_cons_self ha with rfl | hr
        · exact List.find?_cons_of_pos ha
        · exact absurd hr (hR _ _ (h1 b hb'))
      · rw [List.find?_cons_of_neg ha]
        exact ih h2 hb' fun c hc => hmin c (List.mem_cons_of_mem _ hc)

/-- The first offending bit is the off-screen set bit that is first in row, then column order (R246). -/
theorem firstOffending_drawBits_eq_some {s : State} {x y n : Nibble} {r c : Nat} (h : OffScreen s x y n r c)
    (hmin : ∀ r' c', OffScreen s x y n r' c' → r < r' ∨ (r = r' ∧ c ≤ c')) :
    firstOffending (s.drawBits x y n) = some ⟨(s.reg x).toNat + c, (s.reg y).toNat + r, s.spriteBit r c⟩ := by
  obtain ⟨hr, hc, hb, ho⟩ := h
  refine find_eq_some_of_least (R := fun b b' : SpriteBit => b.py < b'.py ∨ (b.py = b'.py ∧ b.px < b'.px))
    (fun a b h => by omega) ?_ _ (spriteBits_sorted ..) (mem_drawBits.2 ⟨r, c, hr, hc, rfl⟩) ?_
  · simp only [outOfBounds, hb, Bool.and_true, Bool.or_eq_true, decide_eq_true_eq]; exact ho
  · intro a ha hp
    obtain ⟨r', c', hr', hc', rfl⟩ := mem_drawBits.1 ha
    simp only [outOfBounds, Bool.and_eq_true, Bool.or_eq_true, decide_eq_true_eq] at hp
    by_cases e : r = r' ∧ c = c'
    · obtain ⟨rfl, rfl⟩ := e; exact .inl rfl
    · have := hmin r' c' ⟨hr', hc', hp.2, hp.1⟩
      exact .inr (by simp only; omega)

end Sys2Proof.Machine
end

