-- ==== Sys2Proof/Laws/Step.lean ====
section
/-! SUPPORT. What a step and a cycle can do, said once: their equations, and the cases a next state comes from. -/

namespace Sys2Proof.Machine

theorem State.fetch_of_le {s : State} (h : s.pc.toNat + 1 ≤ 0xFFF) : s.fetch = some s.fetchedWord := by
  simp [State.fetch, inMemory, h]

theorem State.fetch_of_lt {s : State} (h : 0xFFF < s.pc.toNat + 1) : s.fetch = none := by
  simp [State.fetch, inMemory]; omega

theorem whenRunning_of_running {s : State} (hp : s.phase ≠ .beforeReset) (hh : s.halted = false) (r : Result) :
    whenRunning s r = r := by
  rw [whenRunning, if_neg hp, hh]; rfl

theorem whenRunning_next {s t : State} {r : Result} (h : whenRunning s r = .next t) :
    s.phase ≠ .beforeReset ∧ s.halted = false ∧ r = .next t := by
  unfold whenRunning at h
  split at h
  · cases h
  · split at h
    · cases h
    · next hp hh => exact ⟨hp, by simpa using hh, h⟩

/-- With no event pending a step is a cycle. -/
theorem step_of_nil {s : State} (h : s.pending = []) : step s = whenRunning s (cycle s) := by
  rw [step, nextEvent, h]

/-- With an event pending a step is that event. -/
theorem step_of_cons {s : State} {e : HostEvent} {es : List HostEvent} (h : s.pending = e :: es) :
    step s = hostEvent e (s.setPending es) := by
  rw [step, nextEvent, h]

/-- A cycle whose word decodes runs the instruction. -/
theorem cycle_of_decode {s : State} {i : Instr} (hw : s.waiting = false) (hf : s.pc.toNat + 1 ≤ 0xFFF)
    (hd : decodeWord decodeMode s.fetchedWord = .ok i) : cycle s = finishCycle (exec i s.beginCycle) := by
  rw [cycle, hw, State.fetch_of_le hf]
  simp only [Bool.false_eq_true, if_false, runWord, hd]

/-- A cycle whose word is illegal takes `DecodeFailure`. -/
theorem cycle_of_error {s : State} {e : DecodeError} (hw : s.waiting = false) (hf : s.pc.toNat + 1 ≤ 0xFFF)
    (hd : decodeWord decodeMode s.fetchedWord = .error e) :
    cycle s = .next (s.beginCycle.takeFatal .decodeFailure s.fetchedWord 0) := by
  rw [cycle, hw, State.fetch_of_le hf]
  simp only [Bool.false_eq_true, if_false, runWord, hd]

/-- A cycle whose fetch leaves memory takes `FetchOutOfRange`. -/
theorem cycle_of_fetch_none {s : State} (hw : s.waiting = false) (hf : 0xFFF < s.pc.toNat + 1) :
    cycle s = .next (s.beginCycle.takeFatal .fetchOutOfRange 0 s.pc) := by
  rw [cycle, hw, State.fetch_of_lt hf]
  simp only [Bool.false_eq_true, if_false]

theorem finishCycle_next {r : Result} {t : State} (h : finishCycle r = .next t) : ∃ u, r = .next u ∧ t = u.endCycle := by
  cases r with
  | next u => cases h; exact ⟨u, rfl, rfl⟩
  | fault f => cases h
  | refused f => cases h

/-- The cases of a cycle that answers a next state. -/
theorem cycle_next {s t : State} (h : cycle s = .next t) :
    s.waiting = false ∧
      ((0xFFF < s.pc.toNat + 1 ∧ t = s.beginCycle.takeFatal .fetchOutOfRange 0 s.pc) ∨
       (s.pc.toNat + 1 ≤ 0xFFF ∧ t = s.beginCycle.takeFatal .decodeFailure s.fetchedWord 0) ∨
       (s.pc.toNat + 1 ≤ 0xFFF ∧ ∃ i u, decodeWord decodeMode s.fetchedWord = .ok i ∧
         exec i s.beginCycle = .next u ∧ t = u.endCycle)) := by
  cases hw : s.waiting with
  | true => rw [cycle, hw] at h; cases h
  | false =>
    refine ⟨rfl, ?_⟩
    by_cases hf : s.pc.toNat + 1 ≤ 0xFFF
    · cases hd : decodeWord decodeMode s.fetchedWord with
      | ok i =>
        rw [cycle_of_decode hw hf hd] at h
        obtain ⟨u, hu, ht⟩ := finishCycle_next h
        exact .inr (.inr ⟨hf, i, u, rfl, hu, ht⟩)
      | error e => rw [cycle_of_error hw hf hd] at h; cases h; exact .inr (.inl ⟨hf, rfl⟩)
    · rw [cycle_of_fetch_none hw (by omega)] at h; cases h; exact .inl ⟨by omega, rfl⟩

/-- The cases of a step that answers a next state: a reset, or in a running state a cycle, a load, a tick or a key press. -/
theorem step_next {s t : State} (h : step s = .next t) :
    (∃ es, s.pending = .reset :: es ∧ t = (s.setPending es).hostReset) ∨
    (s.phase ≠ .beforeReset ∧ s.halted = false ∧
      ((s.pending = [] ∧ cycle s = .next t) ∨
       (∃ k es, s.pending = .cycle k :: es ∧ cycle ((s.setPending es).setKeys k) = .next t) ∨
       (∃ us es, s.pending = .load us :: es ∧ s.phase = .loadOpen ∧ us.length ≤ 3584 ∧
         t = (s.setPending es).loaded us) ∨
       (∃ es, s.pending = .tick :: es ∧ t = (s.setPending es).ticked) ∨
       (∃ k es, s.pending = .keyPress k :: es ∧ t = (s.setPending es).keyPressed k))) := by
  cases e : s.pending with
  | nil =>
    rw [step_of_nil e] at h
    obtain ⟨hp, hh, hc⟩ := whenRunning_next h
    exact .inr ⟨hp, hh, .inl ⟨rfl, hc⟩⟩
  | cons ev es =>
    rw [step_of_cons e] at h
    cases ev with
    | reset => cases h; exact .inl ⟨es, rfl, rfl⟩
    | load us =>
      obtain ⟨hp, hh, hc⟩ := whenRunning_next h
      unfold loadProgram at hc
      split at hc
      · next hl => cases hc; exact .inr ⟨hp, hh, .inr (.inr (.inl ⟨us, es, rfl, hl.1, hl.2, rfl⟩))⟩
      · cases hc
    | cycle k =>
      obtain ⟨hp, hh, hc⟩ := whenRunning_next h
      exact .inr ⟨hp, hh, .inr (.inl ⟨k, es, rfl, hc⟩)⟩
    | tick =>
      obtain ⟨hp, hh, hc⟩ := whenRunning_next h
      cases hc; exact .inr ⟨hp, hh, .inr (.inr (.inr (.inl ⟨es, rfl, rfl⟩)))⟩
    | keyPress k =>
      obtain ⟨hp, hh, hc⟩ := whenRunning_next h
      cases hc; exact .inr ⟨hp, hh, .inr (.inr (.inr (.inr ⟨k, es, rfl, rfl⟩)))⟩

end Sys2Proof.Machine
end

