-- ==== Sys2Proof/Tests/Slice0.lean ====
section
/-! SUPPORT. The model's own tests: well-formedness, one word written from the spec's encoding for each constructor, the
vectors of 95_test_vectors.md, and a witness for every statement with hypotheses. Expected values are the spec's. -/

namespace Sys2Proof.Tests

open Sys2Proof Sys2Proof.Machine

/-! Helpers. -/

/-- A result is a next state with a property. -/
def okNext (r : Result) (p : State → Bool) : Bool :=
  match r with
  | .next t => p t
  | .fault _ => false
  | .refused _ => false

/-- A result is the given stop. -/
def stops (f : Fault) (r : Result) : Bool :=
  match r with
  | .next _ => false
  | .fault g => g == f
  | .refused _ => false

/-- One step on a state with a word placed where it fetches. -/
def runs (w : Nat) (s : State) (p : State → Bool) : Bool := okNext (step (s.withFetchWord 16 w)) p

/-- One step that takes an instruction's fatal condition and changes nothing else of note. -/
def halts (w : Nat) (s : State) (cause : Cause) (info : Word) : Bool :=
  runs w s fun t => t.halted && t.fault == ⟨cause, 0x200, BitVec.ofNat 16 w, info⟩ && t.pc == 0x200 && t.v == s.v &&
    t.ireg == s.ireg && t.sp == s.sp && t.fb == s.fb

/-- A word decodes to an instruction under both values of `DECODE_5_9`. -/
def reads (w : Word) (i : Instr) : Bool :=
  [Decode59.ignore, Decode59.fault].all fun mode =>
    match decodeWord mode w with
    | .ok j => decide (j = i)
    | .error _ => false

/-- A word is refused under a value of `DECODE_5_9`. -/
def refuses (mode : Decode59) (w : Word) : Bool :=
  match decodeWord mode w with
  | .ok _ => false
  | .error _ => true

/-- The reset state with two registers set. -/
def with2 (x : Nibble) (a : Byte) (y : Nibble) (b : Byte) : State := (State.reset.setReg x a).setReg y b

/-- The reset state with `I` and bytes at 0x300. -/
def withMem (i : Word) (us : List Byte) : State := (State.reset.setI i).setMem (Memory.writeBytes [] 0x300 us)

/-- A sprite at 0x300 with its origin in `V[0]`, `V[1]`. -/
def sprite (a b : Byte) (us : List Byte) : State := ((withMem 0x300 us).setReg 0 a).setReg 1 b

/-- The reset state with an event pending. -/
def awaiting (e : HostEvent) : State := State.reset.setPending [e]

/-! WellFormed: an ill-formed term for each check. -/

theorem test_wellFormed_refuses_low_nibble_of_se : WellFormed .fault (.seReg 1 2 1) = false := by decide
theorem test_wellFormed_refuses_low_nibble_of_sne : WellFormed .fault (.sneReg 1 2 15) = false := by decide
theorem test_wellFormed_accepts_low_nibble_under_ignore :
    (WellFormed .ignore (.seReg 1 2 1) && WellFormed .fault (.seReg 1 2 0) && WellFormed .fault .cls) = true := by decide

/-! Decoding: a word for every constructor, from the bit patterns of R79 to R84. -/

theorem test_decode_display_and_control :
    (reads 0b0000000011100000 .cls && reads 0b0000000011101110 .ret && reads 0b0001001000000100 (.jp 0x204) &&
      reads 0b0010001100000000 (.call 0x300) && reads 0b0011000100010000 (.seByte 1 0x10) &&
      reads 0b0100000100010000 (.sneByte 1 0x10) && reads 0b0101000100100000 (.seReg 1 2 0) &&
      reads 0b1001000100100000 (.sneReg 1 2 0) && reads 0b1011001100000000 (.jpV0 0x300) &&
      reads 0b1101000000010101 (.drw 0 1 5)) = true := by decide

theorem test_decode_alu :
    (reads 0b0110101001000010 (.ldByte 0xA 0x42) && reads 0b0111001100000010 (.addByte 3 2) &&
      reads 0b1000000100100000 (.ldReg 1 2) && reads 0b1000000100100001 (.orReg 1 2) &&
      reads 0b1000000100100010 (.andReg 1 2) && reads 0b1000000100100011 (.xorReg 1 2) &&
      reads 0b1000000100100100 (.addReg 1 2) && reads 0b1000000100100101 (.sub 1 2) &&
      reads 0b1000000100100110 (.shr 1 2) && reads 0b1000000100100111 (.subn 1 2) &&
      reads 0b1000000100101110 (.shl 1 2) && reads 0b1100000100001111 (.rnd 1 0x0F)) = true := by decide

theorem test_decode_memory_index :
    (reads 0b1010001011110000 (.ldI 0x2F0) && reads 0b1111001100011110 (.addI 3) && reads 0b1111001000101001 (.ldF 2) &&
      reads 0b1111000000110011 (.ldB 0) && reads 0b1111000101010101 (.storeRegs 1) &&
      reads 0b1111001001100101 (.loadRegs 2)) = true := by decide

theorem test_decode_keyboard_timer :
    (reads 0b1110000110011110 (.skp 1) && reads 0b1110000110100001 (.sknp 1) && reads 0b1111010100000111 (.ldVxDt 5) &&
      reads 0b1111001100001010 (.ldVxK 3) && reads 0b1111010100010101 (.ldDtVx 5) &&
      reads 0b1111010100011000 (.ldStVx 5)) = true := by decide

theorem test_decode_refuses_illegal_words :
    ([0x0000, 0x0123, 0x00E1, 0x8008, 0x800F, 0xE09F, 0xE0A2, 0xF000, 0xF0FF, 0xF066].all fun w =>
      refuses .ignore w && refuses .fault w) = true := by decide

theorem test_decode_low_nibble :
    (refuses .fault 0x5121 && refuses .fault 0x9121 && !refuses .ignore 0x5121 && !refuses .ignore 0x9121) = true := by
  decide

/-- Bytes are big-endian and what follows is handed back (R52). -/
theorem test_decode_bytes :
    (match decode .ignore [0x6A, 0x42, 0x99] with
      | .ok (i, rest) => decide (i = .ldByte 0xA 0x42) && rest == [0x99]
      | .error _ => false) = true := by decide

theorem test_decode_too_short :
    (match decode .ignore [0x6A] with
      | .ok _ => false
      | .error e => decide (e = .tooShort)) = true := by decide

theorem test_decodeTableWord :
    (decodeTableWord 16 0xD015 == some (.drw 0 1 5) && decodeTableWord 16 0x0000 == none) = true := by decide

/-! ALU (95_test_vectors.md 2.2). -/

theorem test_ld_byte : runs 0x6A42 State.reset (fun t => t.reg 0xA == 0x42 && t.pc == 0x202) = true := by decide
theorem test_add_byte_wraps :
    runs 0x7302 (with2 3 0xFF 15 0x55) (fun t => t.reg 3 == 0x01 && t.reg 15 == 0x55) = true := by decide
theorem test_ld_reg : runs 0x8120 (with2 1 0 2 0x37) (fun t => t.reg 1 == 0x37 && t.reg 2 == 0x37) = true := by decide
theorem test_or : runs 0x8121 (with2 1 0x0F 2 0xF0) (fun t => t.reg 1 == 0xFF && t.reg 15 == 0) = true := by decide
theorem test_and : runs 0x8122 (with2 1 0x3C 2 0x0F) (fun t => t.reg 1 == 0x0C) = true := by decide
theorem test_xor : runs 0x8123 (with2 1 0xFF 2 0x0F) (fun t => t.reg 1 == 0xF0) = true := by decide
theorem test_add_carry : runs 0x8124 (with2 1 0xFF 2 0x01) (fun t => t.reg 1 == 0 && t.reg 15 == 1) = true := by decide
theorem test_add_to_vf_leaves_flag : runs 0x8F14 (with2 15 0xFF 1 0x01) (fun t => t.reg 15 == 1) = true := by decide
theorem test_sub_borrow : runs 0x8125 (with2 1 0x04 2 0x05) (fun t => t.reg 1 == 0xFF && t.reg 15 == 0) = true := by decide
theorem test_sub_equal : runs 0x8125 (with2 1 0x05 2 0x05) (fun t => t.reg 1 == 0 && t.reg 15 == 1) = true := by decide
theorem test_subn_borrow : runs 0x8127 (with2 1 0x05 2 0x03) (fun t => t.reg 1 == 0xFE && t.reg 15 == 0) = true := by decide
theorem test_subn_equal : runs 0x8127 (with2 1 0x07 2 0x07) (fun t => t.reg 1 == 0 && t.reg 15 == 1) = true := by decide
theorem test_shr_of_vx :
    okNext (shiftRightTo 1 ((with2 1 0xFF 2 0x04).shiftOperand false 1 2) (with2 1 0xFF 2 0x04))
      (fun t => t.reg 1 == 0x7F && t.reg 15 == 1) = true := by decide
theorem test_shr_of_vy :
    okNext (shiftRightTo 1 ((with2 1 0xFF 2 0x04).shiftOperand true 1 2) (with2 1 0xFF 2 0x04))
      (fun t => t.reg 1 == 0x02 && t.reg 15 == 0 && t.reg 2 == 0x04) = true := by decide
theorem test_shl_of_vx :
    okNext (shiftLeftTo 1 ((with2 1 0x81 2 0).shiftOperand false 1 2) (with2 1 0x81 2 0))
      (fun t => t.reg 1 == 0x02 && t.reg 15 == 1) = true := by decide
theorem test_shl_of_vy :
    okNext (shiftLeftTo 1 ((with2 1 0 2 0xC0).shiftOperand true 1 2) (with2 1 0 2 0xC0))
      (fun t => t.reg 1 == 0x80 && t.reg 15 == 1) = true := by decide
theorem test_rnd_masks_draw :
    okNext (randomTo 1 0x0F 0xAB State.reset) (fun t => t.reg 1 == 0x0B && t.draws == 1) = true := by decide
theorem test_rnd_takes_one_draw : runs 0xC100 State.reset (fun t => t.draws == 1 && t.pc == 0x202) = true := by decide

/-! Display (2.3). -/

theorem test_cls :
    runs 0x00E0 (State.reset.setFb (Vector.replicate 32 0xFFFF))
      (fun t => t.fb == Vector.replicate 32 0 && t.clear && t.redraw && t.pc == 0x202) = true := by decide
/-- Bit 7 is leftmost, bit 0 of column 7; wrap and clip; zero bits are not tested; `N = 0`; an old VF as origin. -/
theorem test_drw_draws :
    (okNext (drawAt .fault 0 1 1 ((sprite 0 0 [0x80]).setFb ((Vector.replicate 32 0).set 0 1)))
        (fun t => t.pixel 0 0 == false && t.reg 15 == 1 && t.redraw) &&
      okNext (drawAt .fault 0 1 1 (sprite 0 0x1F [0x01])) (fun t => t.pixel 7 31 && t.reg 15 == 0) &&
      okNext (drawAt .wrap 0 1 1 (sprite 0x3E 0 [0xFF]))
        (fun t => t.fb == (Vector.replicate 32 0).set 0 0xC00000000000003F && t.reg 15 == 0) &&
      okNext (drawAt .clip 0 1 1 (sprite 0x3E 0 [0xFF]))
        (fun t => t.fb == (Vector.replicate 32 0).set 0 0xC000000000000000 && t.reg 15 == 0) &&
      okNext (drawAt .fault 0 1 1 (sprite 0xFF 0 [0x00])) (fun t => !t.halted && t.reg 15 == 0) &&
      runs 0xD010 (with2 15 7 0 0xFF) (fun t => t.reg 15 == 0 && t.redraw && !t.clear) &&
      runs 0xDFF1 ((withMem 0x300 [0x80]).setReg 15 5) (fun t => t.pixel 5 5 && t.reg 15 == 0)) = true := by decide
theorem test_drw_raises :
    (okNext (drawAt .fault 0 1 1 ((sprite 0x3E 0 [0xFF]).placeWord 16 0xD011))
        (fun t => t.halted && t.fault == ⟨.spriteOutOfBounds, 0x200, 0xD011, 0x0040⟩ && t.fb == Vector.replicate 32 0) &&
      okNext (drawAt .fault 0 1 2 (sprite 0 0x1F [0x01, 0x01])) (fun t => t.fault.info == 0x2007) &&
      halts 0xD013 (withMem 0xFFE []) .dataOutOfRange 0x1000) = true := by decide

/-- The host's frame is row-major (R261): pixels (5, 1) and (63, 31) are elements 69 and 2047. -/
theorem test_host_view_row_major :
    let s := State.reset.setFb (((Vector.replicate 32 0).set 1 0x20).set 31 0x8000000000000000)
    s.hostView.frame[69] = 1 ∧ s.hostView.frame[2047] = 1 ∧ s.hostView.frame[68] = 0 ∧ s.hostView.frame[321] = 0 := by
  refine ⟨?_, ?_, ?_, ?_⟩ <;> exact (State.getElem_frameBytes _ _ (by decide)).trans (by decide)

/-! Index and memory (2.4). -/

theorem test_ld_i : runs 0xA2F0 State.reset (fun t => t.ireg == 0x02F0) = true := by decide
theorem test_add_i_no_flag :
    runs 0xF31E ((with2 3 3 15 7).setI 0x0FFE) (fun t => t.ireg == 0x1001 && t.reg 15 == 7) = true := by decide
theorem test_add_i_wraps : runs 0xF31E ((with2 3 1 15 7).setI 0xFFFF) (fun t => t.ireg == 0) = true := by decide
theorem test_ld_f : runs 0xF229 (with2 2 0x0F 0 0) (fun t => t.ireg == 0x004B) = true := by decide
theorem test_ld_f_raises : halts 0xF229 (with2 2 0x10 0 0) .fontDigitOutOfRange 0x10 = true := by decide
theorem test_ld_b :
    runs 0xF033 ((with2 0 0xFF 1 0).setI 0x300)
      (fun t => Memory.readBytes t.mem 0x300 3 == [2, 5, 5] && t.ireg == 0x300) = true := by decide
theorem test_ld_b_raises : halts 0xF033 ((with2 0 0x80 1 0).setI 0xFFE) .dataOutOfRange 0x1000 = true := by decide
theorem test_store_regs :
    (okNext (storeBlock false 1 ((with2 0 0x11 1 0x22).setI 0x300))
        (fun t => Memory.readBytes t.mem 0x300 3 == [0x11, 0x22, 0] && t.ireg == 0x300 && t.pc == 0x202) &&
      okNext (storeBlock true 1 ((with2 0 0x11 1 0x22).setI 0x300)) (fun t => t.ireg == 0x302)) = true := by decide
theorem test_store_regs_raises : halts 0xFF55 (withMem 0xFF1 []) .dataOutOfRange 0x1000 = true := by decide
theorem test_load_regs :
    (okNext (fillBlock false 2 ((withMem 0x300 [0xAA, 0xBB, 0xCC, 0xDD]).setReg 3 9))
        (fun t => t.reg 0 == 0xAA && t.reg 1 == 0xBB && t.reg 2 == 0xCC && t.reg 3 == 9 && t.ireg == 0x300) &&
      okNext (fillBlock true 2 (withMem 0x300 [0xAA, 0xBB, 0xCC])) (fun t => t.ireg == 0x303)) = true := by decide
/-- The font is at 0x000 (R271). -/
theorem test_load_regs_reads_font :
    okNext (fillBlock false 0 State.reset) (fun t => t.reg 0 == Config.font[0]) = true :=
  decide_eq_true (rfl : Config.font[0] = Config.font[0])

/-! Control flow (2.5). -/

theorem test_call : runs 0x2300 State.reset (fun t => t.sp == 1 && t.stackSlot 1 == 0x0202 && t.pc == 0x0300) = true := by decide
theorem test_call_overflows : halts 0x2300 { State.reset with sp := 16 } .stackOverflow 16 = true := by decide
theorem test_ret :
    runs 0x00EE (State.reset.push 0x0202) (fun t => t.pc == 0x0202 && t.sp == 0 && t.stackSlot 1 == 0x0202) = true := by decide
theorem test_ret_underflows : halts 0x00EE State.reset .stackUnderflow 0 = true := by decide
theorem test_jp : runs 0x1FFF State.reset (fun t => t.pc == 0x0FFF) = true := by decide
theorem test_jp_v0 : runs 0xBFFF (with2 0 0xFF 15 1) (fun t => t.pc == 0x10FE) = true := by decide
theorem test_jp_v0_uses_v0_only : runs 0xB301 (with2 0 0 3 0x10) (fun t => t.pc == 0x0301) = true := by decide
theorem test_se_byte :
    (runs 0x3110 (with2 1 0x10 0 0) (fun t => t.pc == 0x204) && runs 0x3110 (with2 1 0x11 0 0) (fun t => t.pc == 0x202)) =
      true := by decide
theorem test_sne_byte :
    (runs 0x4110 (with2 1 0x10 0 0) (fun t => t.pc == 0x202) && runs 0x4110 (with2 1 0x11 0 0) (fun t => t.pc == 0x204)) =
      true := by decide
theorem test_se_reg :
    (runs 0x5120 (with2 1 0x33 2 0x33) (fun t => t.pc == 0x204) && runs 0x5110 State.reset (fun t => t.pc == 0x204)) =
      true := by decide
theorem test_sne_reg :
    (runs 0x9120 (with2 1 1 2 2) (fun t => t.pc == 0x204) && runs 0x9110 State.reset (fun t => t.pc == 0x202)) = true := by
  decide

/-! Keyboard, timers and host events (2.6). -/

theorem test_skp :
    (runs 0xE19E ((with2 1 5 0 0).setKeys 0x0020) (fun t => t.pc == 0x204) &&
      runs 0xE19E (with2 1 5 0 0) (fun t => t.pc == 0x202)) = true := by decide
theorem test_skp_raises : halts 0xE19E (with2 1 0x10 0 0) .keyIndexOutOfRange 0x10 = true := by decide
theorem test_sknp :
    (runs 0xE1A1 ((with2 1 5 0 0).setKeys 0x0020) (fun t => t.pc == 0x202) &&
      runs 0xE1A1 (with2 1 5 0 0) (fun t => t.pc == 0x204)) = true := by decide
theorem test_ld_vx_k :
    runs 0xF30A State.reset (fun t => t.waiting && t.waitReg == 3 && t.pc == 0x202 && t.waitOut && t.reg 3 == 0) = true := by
  decide
theorem test_ld_vx_dt : runs 0xF507 (State.reset.setTimers 0x3C 0) (fun t => t.reg 5 == 0x3C) = true := by decide
theorem test_ld_dt_vx : runs 0xF515 (with2 5 0x3C 0 0) (fun t => t.dt == 0x3C && t.st == 0) = true := by decide
theorem test_ld_st_vx : runs 0xF518 (with2 5 2 0 0) (fun t => t.st == 2 && t.dt == 0 && t.sound) = true := by decide
theorem test_key_press :
    okNext (step ((awaiting (.keyPress 0xB)).startWait 3)) (fun t => t.reg 3 == 0x0B && !t.waiting && !t.waitOut) = true := by
  decide
theorem test_key_press_without_wait :
    okNext (step (awaiting (.keyPress 2))) (fun t => decide (t = State.reset)) = true := by decide
theorem test_cycle_while_waiting : stops .keyWait (step (State.reset.startWait 3)) = true := by decide
theorem test_tick :
    (okNext (step ((awaiting .tick).setTimers 0x3C 2)) (fun t => t.dt == 0x3B && t.st == 1) &&
      okNext (step ((awaiting .tick).setTimers 0 1)) (fun t => t.dt == 0 && t.st == 0 && !t.sound)) = true := by decide
theorem test_tick_while_waiting : okNext (step (((awaiting .tick).setTimers 5 0).startWait 0)) (fun t => t.dt == 4) = true := by
  decide
/-- Reset memory at 0x200 is an illegal word (vector 2.1). -/
theorem test_zero_word_halts : halts 0x0000 State.reset .decodeFailure 0 = true := by decide
theorem test_fetch_at_ffe :
    okNext (step ((State.reset.setPc 0xFFE).withFetchWord 16 0x6001)) (fun t => t.reg 0 == 1 && t.pc == 0x1000) = true := by
  decide
theorem test_fetch_out_of_range :
    okNext (step (State.reset.setPc 0xFFF)) (fun t => t.fault == ⟨.fetchOutOfRange, 0xFFF, 0, 0xFFF⟩ && t.pc == 0xFFF) =
      true := by decide
theorem test_halted_has_no_step :
    ([HostEvent.tick, .cycle 0, .keyPress 1, .load []].all fun e =>
      stops .halted (step { awaiting e with halted := true })) = true := by decide
theorem test_reset_leaves_halt :
    okNext (step { awaiting .reset with halted := true, pc := 0x300, dt := 9 }) (fun t => decide (t = State.reset)) = true := by
  decide
theorem test_load :
    okNext (step (awaiting (.load [0x60, 0x0A, 0x70])))
      (fun t => Memory.readBytes t.mem 0x1FF 5 == [0, 0x60, 0x0A, 0x70, 0] && decide (t.phase = .loadClosed)) = true := by decide
/-- A stored byte is fetched as written by the next cycle (R277): the store at 0x202 makes 0x6A42 of it. -/
theorem test_store_is_fetched_next :
    okNext (storeBlock false 1 (((with2 0 0x6A 1 0x42).setI 0x202).beginCycle))
      (fun t => okNext (step t) fun u => u.reg 0xA == 0x42) = true := by decide

/-! Witnesses: states and operands that meet the hypotheses of each statement that has some, at the ends of its ranges. -/

/-- The reset state with a word at 0x200, running. -/
def at200 (w : Nat) : State := State.reset.placeWord 16 w

theorem witness_DecodeOfEncodeIsIdentity :
    WellFormed .ignore (.seReg 15 15 15) = true ∧ WellFormed .fault (.sneReg 0 0 0) = true ∧
      WellFormed .fault (.drw 15 0 15) = true := by decide
theorem witness_EncodeOfDecodeIsIdentity :
    decodeWord .ignore 0x5121 = .ok (.seReg 1 2 1) ∧ decodeWord .fault 0xFF65 = .ok (.loadRegs 15) := ⟨rfl, rfl⟩
theorem witness_DecoderRejectsExactlyIllegalWords :
    IllegalWord .ignore 0x00E1 ∧ IllegalWord .fault 0x5121 ∧ IllegalWord .fault 0x912F ∧ IllegalWord .ignore 0x8008 ∧
      IllegalWord .ignore 0xE09F ∧ IllegalWord .ignore 0xF066 ∧ ¬IllegalWord .ignore 0x5121 := by
  refine ⟨?_, ?_, ?_, ?_, ?_, ?_, ?_⟩ <;> unfold IllegalWord <;> decide

theorem witness_StepRunsDecodedInstruction_no_event :
    let s := at200 0x6A42
    s.phase ≠ .beforeReset ∧ s.halted = false ∧ s.waiting = false ∧ s.pc.toNat + 1 ≤ 0xFFF ∧
      decodeWord decodeMode s.fetchedWord = .ok (.ldByte 0xA 0x42) ∧ CycleFrom s s.beginCycle :=
  ⟨by decide, rfl, rfl, by decide, rfl, .inl ⟨rfl, rfl⟩⟩
/-- The last address a fetch may have, and a cycle with keys as the next event. -/
theorem witness_StepRunsDecodedInstruction_cycle :
    let s := ((State.reset.setPc 0xFFE).placeWord 16 0x6A42).setPending [.cycle 0xFFFF, .tick]
    s.phase ≠ .beforeReset ∧ s.halted = false ∧ s.waiting = false ∧ s.pc.toNat + 1 ≤ 0xFFF ∧
      decodeWord decodeMode s.fetchedWord = .ok (.ldByte 0xA 0x42) ∧
      CycleFrom s ((s.setPending [.tick]).setKeys 0xFFFF).beginCycle :=
  ⟨by decide, rfl, rfl, by decide, rfl, .inr ⟨0xFFFF, [.tick], rfl, rfl⟩⟩
theorem witness_FetchBeyondMemoryHalts :
    let s := State.reset.setPc 0xFFF
    s.phase ≠ .beforeReset ∧ s.halted = false ∧ s.waiting = false ∧ 0xFFF < s.pc.toNat + 1 ∧ CycleFrom s s.beginCycle :=
  ⟨by decide, rfl, rfl, by decide, .inl ⟨rfl, rfl⟩⟩
theorem witness_FetchBeyondMemoryHalts_cycle :
    let s := (State.reset.setPc 0x10FE).setPending [.cycle 1, .reset]
    s.phase ≠ .beforeReset ∧ s.halted = false ∧ s.waiting = false ∧ 0xFFF < s.pc.toNat + 1 ∧
      CycleFrom s ((s.setPending [.reset]).setKeys 1).beginCycle :=
  ⟨by decide, rfl, rfl, by decide, .inr ⟨1, [.reset], rfl, rfl⟩⟩
theorem witness_IllegalWordHalts :
    let s := State.reset
    s.phase ≠ .beforeReset ∧ s.halted = false ∧ s.waiting = false ∧ s.pc.toNat + 1 ≤ 0xFFF ∧
      IllegalWord decodeMode s.fetchedWord ∧ CycleFrom s s.beginCycle :=
  ⟨by decide, rfl, rfl, by decide, .inl (by decide), .inl ⟨rfl, rfl⟩⟩
theorem witness_IllegalWordHalts_cycle :
    let s := (at200 0xF066).setPending [.cycle 0xFFFF]
    s.phase ≠ .beforeReset ∧ s.halted = false ∧ s.waiting = false ∧ s.pc.toNat + 1 ≤ 0xFFF ∧
      IllegalWord decodeMode s.fetchedWord ∧ CycleFrom s ((s.setPending []).setKeys 0xFFFF).beginCycle :=
  ⟨by decide, rfl, rfl, by decide, .inr (.inr (.inr (.inr (by decide)))), .inr ⟨0xFFFF, [], rfl, rfl⟩⟩
theorem witness_FatalConditionsArePrecise_decode :
    let t := State.reset.beginCycle.takeFatal .decodeFailure 0 0
    State.reset.halted = false ∧ step State.reset = .next t ∧ t.halted = true ∧ t.fault.cause ≠ .fetchOutOfRange :=
  ⟨rfl, rfl, rfl, by decide⟩
theorem witness_FatalConditionsArePrecise_fetch :
    let s := State.reset.setPc 0xFFF
    let t := s.beginCycle.takeFatal .fetchOutOfRange 0 0xFFF
    s.halted = false ∧ step s = .next t ∧ t.halted = true ∧ t.fault.cause = .fetchOutOfRange := ⟨rfl, rfl, rfl, rfl⟩
theorem witness_RunningCycleAnswersNext :
    let s := ({ State.reset with sp := 16 }).setPending [.cycle 0]
    s.phase ≠ .beforeReset ∧ s.halted = false ∧ s.waiting = false ∧ s.sp.toNat ≤ 16 ∧ NextIsCycle s ∧
      NextIsCycle State.reset := ⟨by decide, rfl, rfl, by decide, .inr ⟨0, [], rfl⟩, .inl rfl⟩
theorem witness_EveryInstructionAnswersNext :
    State.reset.sp.toNat ≤ 16 ∧ ({ State.reset with sp := 16 } : State).sp.toNat ≤ 16 := by decide
theorem witness_HaltedAcceptsOnlyReset :
    let s := { awaiting .tick with halted := true }
    s.phase ≠ .beforeReset ∧ s.halted = true ∧ NextIsNotReset s := ⟨by decide, rfl, by simp [NextIsNotReset, awaiting]⟩
theorem witness_CycleWhileWaitingHasNoStep :
    let s := State.reset.startWait 3
    s.phase ≠ .beforeReset ∧ s.halted = false ∧ s.waiting = true ∧ NextIsCycle s := ⟨by decide, rfl, rfl, .inl rfl⟩
theorem witness_CycleWhileWaitingHasNoStep_cycle :
    let s := (awaiting (.cycle 0xFFFF)).startWait 15
    s.phase ≠ .beforeReset ∧ s.halted = false ∧ s.waiting = true ∧ NextIsCycle s :=
  ⟨by decide, rfl, rfl, .inr ⟨0xFFFF, [], rfl⟩⟩
theorem witness_OnlyResetBeforeFirstReset :
    let s := { State.reset with phase := .beforeReset }
    s.phase = .beforeReset ∧ NextIsNotReset s := ⟨rfl, by simp [NextIsNotReset, State.reset]⟩
theorem witness_TickDecrementsTimers :
    let s := ((awaiting .tick).setTimers 0 255).startWait 1
    s.phase ≠ .beforeReset ∧ s.halted = false ∧ s.pending = .tick :: [] := ⟨by decide, rfl, rfl⟩
theorem witness_KeyPressEndsWait :
    let s := awaiting (.keyPress 0xF)
    s.phase ≠ .beforeReset ∧ s.halted = false ∧ s.pending = .keyPress 0xF :: [] ∧ s.waiting = false ∧
      (s.startWait 15).pending = .keyPress 0xF :: [] ∧ (s.startWait 15).waiting = true :=
  ⟨by decide, rfl, rfl, rfl, rfl, rfl⟩
/-- The longest program a load accepts. -/
theorem witness_LoadCopiesProgram :
    let us := List.replicate 3584 (0xFF : Byte)
    let s := awaiting (.load us)
    s.phase = .loadOpen ∧ s.halted = false ∧ Memory.wf s.mem = true ∧ s.pending = .load us :: [] ∧ us.length ≤ 3584 :=
  ⟨rfl, rfl, rfl, rfl, by rw [List.length_replicate]⟩
theorem witness_LateOrLongLoadHasNoStep :
    let us := List.replicate 3585 (0 : Byte)
    let s := awaiting (.load us)
    let u := { awaiting (.load []) with phase := .loadClosed }
    s.phase ≠ .beforeReset ∧ s.halted = false ∧ s.pending = .load us :: [] ∧ 3584 < us.length ∧
      u.phase ≠ .beforeReset ∧ u.halted = false ∧ u.pending = .load [] :: [] ∧ u.phase = .loadClosed :=
  ⟨show Phase.loadOpen ≠ .beforeReset by decide, rfl, rfl, by rw [List.length_replicate]; decide, by decide, rfl, rfl, rfl⟩
theorem witness_ResetEventRestoresEverything :
    ({ awaiting .reset with halted := true, phase := .beforeReset } : State).pending = .reset :: [] := rfl
theorem witness_StepKeepsMachineInvariant :
    MachineInv (at200 0x6A42) ∧ okNext (step (at200 0x6A42)) (fun _ => true) = true := by
  unfold MachineInv; decide
theorem witness_StepKeepsPcBounded :
    let s := State.reset.setPc 0x10FE
    PcBounded s ∧ step s = .next (s.beginCycle.takeFatal .fetchOutOfRange 0 0x10FE) :=
  ⟨⟨by decide, fun k _ _ => by simp [State.stackSlot, State.reset, Vector.getElem?_replicate]; split <;> simp⟩, rfl⟩
theorem witness_StepKeepsUntouchedUntilBoot :
    UntouchedUntilBoot (awaiting .tick) ∧ step (awaiting .tick) = .next State.reset := by
  refine ⟨fun _ p hp => ?_, rfl⟩
  cases p
  case pending => exact absurd (by decide) hp
  all_goals (simp only [Part.same]; intros; rfl)
theorem witness_InstructionsWriteOnlyNamedParts :
    exec (.ldByte 3 7) State.reset = .next (State.reset.setReg 3 7).advance ∧ Part.dt ∉ mayWrite (.ldByte 3 7) :=
  ⟨rfl, by decide⟩
theorem witness_InstructionsWriteOnlyNamedRegisters :
    exec (.addByte 3 7) State.reset = .next (State.reset.setReg 3 7).advance ∧ writesReg (.addByte 3 7) 15 = false ∧
      writesReg (.loadRegs 3) 4 = false ∧ writesReg (.loadRegs 3) 3 = true := ⟨rfl, rfl, rfl, rfl⟩

/-! The flag clauses hold for a destination other than VF: test_add_carry, test_sub_equal, test_subn_equal and
test_add_to_vf_leaves_flag are their witnesses. -/

/-- A sprite whose last bit is the last pixel. -/
theorem witness_DrawOnScreenResult :
    let s := sprite 0x38 0x1F [0xFF]
    BlockInMemory s (1 : Nibble).toNat ∧ (∀ r c, ¬OffScreen s 0 1 1 r c) ∧ Covers spriteEdge s 0 1 1 63 31 := by
  refine ⟨.inr (by decide), ?_, 0, 7, by decide, by decide, rfl, .inl (by decide)⟩
  rintro r c ⟨hr, hc, -, h⟩
  have h0 : ((sprite 0x38 0x1F [0xFF]).reg 0).toNat = 56 := rfl
  have h1 : ((sprite 0x38 0x1F [0xFF]).reg 1).toNat = 31 := rfl
  have h2 : (1 : Nibble).toNat = 1 := rfl
  omega
theorem witness_DrawUnderEveryEdge :
    BlockInMemory (sprite 0xFF 0xFF [0xFF]) (1 : Nibble).toNat ∧ BlockInMemory (State.reset.setI 0xFFF) 1 ∧
      BlockInMemory (State.reset.setI 0xFFFF) (0 : Nibble).toNat ∧
      Covers .wrap (sprite 0x3E 0 [0xFF]) 0 1 1 0 0 :=
  ⟨.inr (by decide), .inr (by decide), .inl rfl, 0, 2, by decide, by decide, rfl, .inr (by decide)⟩
theorem witness_SpriteOffScreenHalts :
    let s := sprite 0x3E 0 [0xFF]
    BlockInMemory s (1 : Nibble).toNat ∧ OffScreen s 0 1 1 0 2 ∧
      ∀ r' c', OffScreen s 0 1 1 r' c' → 0 < r' ∨ (0 = r' ∧ 2 ≤ c') := by
  refine ⟨.inr (by decide), ⟨by decide, by decide, rfl, .inl (by decide)⟩, ?_⟩
  rintro r c ⟨hr, hc, -, h⟩
  have h0 : ((sprite 0x3E 0 [0xFF]).reg 0).toNat = 62 := rfl
  have h1 : ((sprite 0x3E 0 [0xFF]).reg 1).toNat = 0 := rfl
  have h2 : (1 : Nibble).toNat = 1 := rfl
  omega
/-- Drawing glyph rows on a clear screen: the first draw sets the pixel, so the second sets VF. -/
theorem witness_DrawTwiceRestores_sets :
    let s := sprite 0 0 [0x80]
    let t := s.drawn (blit spriteEdge s.fb (s.drawBits 0 1 1))
    let u := s.setFb t.fb
    exec (.drw 0 1 1) s = .next t ∧ t.halted = false ∧ u.reg 0 = s.reg 0 ∧ u.reg 1 = s.reg 1 ∧ u.ireg = s.ireg ∧
      (∀ a, u.byteAt a = s.byteAt a) ∧ (∀ px py, px < 64 → py < 32 → u.pixel px py = t.pixel px py) ∧
      s.pixel 0 0 = false ∧ t.pixel 0 0 = true :=
  ⟨rfl, rfl, rfl, rfl, rfl, fun _ => rfl, fun _ _ _ _ => rfl, rfl, rfl⟩
/-- Drawing on a full screen: the first draw sets nothing, so the second clears VF. -/
theorem witness_DrawTwiceRestores_clears :
    let s := (sprite 0 0 [0x80]).setFb (Vector.replicate 32 (BitVec.allOnes 64))
    let t := s.drawn (blit spriteEdge s.fb (s.drawBits 0 1 1))
    exec (.drw 0 1 1) s = .next t ∧ t.halted = false ∧
      (∀ px py, px < 64 → py < 32 → s.pixel px py = false → t.pixel px py = false) := by
  refine ⟨rfl, rfl, fun px py hx hy h => ?_⟩
  have : ((sprite 0 0 [0x80]).setFb (Vector.replicate 32 (BitVec.allOnes 64))).pixel px py = true := by
    rw [State.pixel, State.setFb_fb, Vector.getElem?_replicate, if_pos hy, Option.getD_some, BitVec.getLsbD_allOnes]
    exact decide_eq_true hx
  rw [this] at h; cases h

theorem witness_FontAddressResult :
    ((with2 2 0x0F 0 0).reg 2).toNat ≤ 15 ∧ 15 < ((with2 2 0x10 0 0).reg 2).toNat := by decide
theorem witness_DecimalDigitsResult :
    let s := (with2 0 0xFF 1 0).setI 0xFFD
    Memory.wf s.mem = true ∧ BlockInMemory s 3 ∧ ¬BlockInMemory (s.setI 0xFFE) 3 :=
  ⟨rfl, .inr (by decide), by unfold BlockInMemory; decide⟩
theorem witness_StoreRegistersResult :
    let s := State.reset.setI 0xFF0
    Memory.wf s.mem = true ∧ BlockInMemory s ((15 : Nibble).toNat + 1) ∧
      ¬BlockInMemory (s.setI 0xFF1) ((15 : Nibble).toNat + 1) :=
  ⟨rfl, .inr (by decide), by unfold BlockInMemory; decide⟩
theorem witness_LoadRegistersResult :
    BlockInMemory (State.reset.setI 0xFF0) ((15 : Nibble).toNat + 1) ∧
      ¬BlockInMemory (State.reset.setI 0xFFFF) ((0 : Nibble).toNat + 1) :=
  ⟨.inr (by decide), by unfold BlockInMemory; decide⟩
theorem witness_DataBeyondMemoryHalts :
    ¬BlockInMemory (State.reset.setI 0xFFE) 3 ∧ ¬BlockInMemory (State.reset.setI 0xFF1) ((15 : Nibble).toNat + 1) ∧
      ¬BlockInMemory (State.reset.setI 0xFFFF) ((0 : Nibble).toNat + 1) ∧
      ¬BlockInMemory (State.reset.setI 0xFFE) (3 : Nibble).toNat := by
  unfold BlockInMemory; decide
theorem witness_LoadAfterStoreRestoresRegisters :
    let s := (with2 0 0x11 1 0x22).setI 0x300
    let t := ((s.setMem (Memory.writeBytes s.mem 0x300 (s.regBlock 1))).advanceI loadStoreIncrementsI 1).advance
    let u := t.setI 0x300
    Memory.wf s.mem = true ∧ exec (.storeRegs 1) s = .next t ∧ t.halted = false ∧ u.ireg = s.ireg ∧
      ∀ a, u.byteAt a = t.byteAt a :=
  ⟨rfl, rfl, by simp [with2, State.reset], rfl, fun _ => rfl⟩
theorem witness_CallResult :
    State.reset.sp.toNat < 16 ∧ ({ State.reset with sp := 15 } : State).sp.toNat < 16 ∧
      ({ State.reset with sp := 16 } : State).sp.toNat = 16 := by decide
theorem witness_ReturnResult :
    1 ≤ ({ State.reset with sp := 1 } : State).sp.toNat ∧ ({ State.reset with sp := 16 } : State).sp.toNat ≤ 16 ∧
      State.reset.sp.toNat = 0 := by decide
/-- The sixteenth call. -/
theorem witness_ReturnAfterCallComesBack :
    let s := { State.reset with sp := 15 }
    let t := (s.push s.pcNext).setPc 0x300
    s.sp.toNat < 16 ∧ exec (.call 0x300) s = .next t ∧ t.sp = t.sp ∧ (∀ k, 1 ≤ k → k ≤ 16 → t.stackSlot k = t.stackSlot k) :=
  ⟨by decide, rfl, rfl, fun _ _ _ => rfl⟩
theorem witness_KeySkipResults :
    ((with2 1 0x0F 0 0).reg 1).toNat ≤ 15 ∧ 15 < ((with2 1 0x10 0 0).reg 1).toNat := by decide
theorem witness_KeyWaitThenPress :
    let s := (at200 0xF30A).setPending [.cycle 0, .keyPress 0xB]
    s.phase ≠ .beforeReset ∧ s.halted = false ∧ s.waiting = false ∧ s.pc.toNat + 1 ≤ 0xFFF ∧
      s.fetchedWord = 0xF#4 ++ (3 : Nibble) ++ 0x0A#8 ∧ s.pending = [.cycle s.keys, .keyPress 0xB] :=
  ⟨by decide, rfl, rfl, by decide, rfl, rfl⟩

end Sys2Proof.Tests
end

section
/-! The values of the state right after reset (10_state.md R40). -/

namespace Sys2Proof.Machine

/-! Memory as reset leaves it: FONT, then zeros (R57, R271). -/

theorem resetByte_of_lt {a : Nat} (h : a < 80) : resetByte a = Config.font[a] := by
  rw [resetByte, dif_pos h, fontByte]

theorem resetByte_of_le {a : Nat} (h : 80 ≤ a) : resetByte a = 0 := dif_neg (Nat.not_lt.2 h)

/-- Reset lists no byte, so every address reads as its reset contents. -/
@[simp] theorem State.byteAt_reset (a : Nat) : State.reset.byteAt a = resetByte a := rfl

/-! Vectors of zeros: the register file, the call stack and the framebuffer. -/

/-- Reading a vector of zeros gives 0 at every index, in range or not. -/
theorem getD_replicate_zero {n w : Nat} (k : Nat) :
    ((Vector.replicate n (0 : BitVec w))[k]?.getD 0) = 0 := by
  rw [Vector.getElem?_replicate]
  split <;> rfl

@[simp] theorem State.reg_reset (k : Nibble) : State.reset.reg k = 0 := Vector.getElem_replicate k.isLt

@[simp] theorem State.stackSlot_reset (k : Nat) : State.reset.stackSlot k = 0 := getD_replicate_zero (k - 1)

/-- A framebuffer of zeros has no pixel set (R30). -/
@[simp] theorem fbPixel_replicate_zero (x y : Nat) : fbPixel (Vector.replicate 32 0) x y = false := by
  rw [fbPixel, getD_replicate_zero]
  exact BitVec.getLsbD_zero

@[simp] theorem State.pixel_reset (x y : Nat) : State.reset.pixel x y = false := fbPixel_replicate_zero x y

/-- Settles O19: memory from the reset contents of an address, registers, stack and pixels from the zero vectors; the other
fields stand in `State.reset`. -/
theorem resetValues : Obligations.ResetValues := by
  unfold Obligations.ResetValues
  have font (a : Nat) (h : a < 80) : State.reset.byteAt a = Config.font[a] := by
    rw [State.byteAt_reset, resetByte_of_lt h]
  have zeros (a : Nat) (h : 0x50 ≤ a) (_ : a ≤ 0xFFF) : State.reset.byteAt a = 0 := by
    rw [State.byteAt_reset, resetByte_of_le h]
  exact ⟨font, zeros, State.reg_reset, rfl, rfl, rfl, fun k _ _ => State.stackSlot_reset k,
    fun px py _ _ => State.pixel_reset px py, rfl, rfl, rfl, rfl, rfl, rfl, rfl, rfl, rfl⟩

end Sys2Proof.Machine
end

section
/-! The 8-bit ALU and the register loads (41_alu.md). Every instruction of the family answers through `writeReg` or
`writeRegFlag`, so what those two do is said once, and each obligation adds its word and its arithmetic. -/

namespace Sys2Proof.Machine

/-! Words of classes 6, 7 and 8 (R79, R81). -/

theorem isWordOf_ldByte (x : Nibble) (nn : Byte) : IsWordOf (0x6#4 ++ x ++ nn) (.ldByte x nn) := by
  intro mode
  simp [decodeWord]

theorem isWordOf_addByte (x : Nibble) (nn : Byte) : IsWordOf (0x7#4 ++ x ++ nn) (.addByte x nn) := by
  intro mode
  simp [decodeWord]

/-- A word of class 8 is what its second level says, under either `DECODE_5_9`. -/
theorem isWordOf_class8 {x y n : Nibble} {i : Instr} (h : decodeClass8 (0x8#4 ++ x ++ y ++ n) = .ok i) :
    IsWordOf (0x8#4 ++ x ++ y ++ n) i := by
  intro mode
  simpa [decodeWord] using h

/-! What a register write and its flag leave. -/

/-- Replacing the registers and advancing changes no other part. -/
theorem sameBut_setRegs_advance (s : State) (v : Vector (BitVec 8) 16) :
    SameBut [.v, .pc] s (s.setRegs v).advance := by
  intro p hp
  cases p with
  | v | pc => simp at hp
  | mem => exact fun _ => rfl
  | stack => exact fun _ _ _ => rfl
  | fb => exact fun _ _ _ _ => rfl
  | _ => rfl

/-- `t` is `s` with `b` in `V[x]` and the default advance; nothing else changes (R130). -/
structure WroteReg (x : Nibble) (b : Byte) (s t : State) : Prop where
  dest : t.reg x = b
  others : ∀ k, k ≠ x → t.reg k = s.reg k
  pc : t.pc = s.pc + 2
  frame : SameBut [.v, .pc] s t

/-- `t` is `s` with `b` in `V[x]`, then the flag in VF, and the default advance; nothing else changes (R16, R130). -/
structure WroteRegFlag (x : Nibble) (b : Byte) (flag : Bool) (s t : State) : Prop where
  dest : x ≠ 15 → t.reg x = b
  flag : t.reg 15 = if flag then 1 else 0
  others : ∀ k, k ≠ x → k ≠ 15 → t.reg k = s.reg k
  pc : t.pc = s.pc + 2
  frame : SameBut [.v, .pc] s t

theorem writeReg_next (x : Nibble) (b : Byte) (s : State) : ∃ t, writeReg x b s = .next t ∧ WroteReg x b s t :=
  ⟨_, rfl, {
    dest := State.reg_setReg_self s x b
    others := fun _ hk => State.reg_setReg_ne s b hk
    pc := rfl
    frame := sameBut_setRegs_advance s _ }⟩

/-- The flag is written last, so it is what remains in VF for `x = 15` too. -/
theorem writeRegFlag_next (x : Nibble) (b : Byte) (flag : Bool) (s : State) :
    ∃ t, writeRegFlag x b flag s = .next t ∧ WroteRegFlag x b flag s t :=
  ⟨_, rfl, {
    dest := fun hx => (State.reg_setFlag_ne _ flag hx).trans (State.reg_setReg_self s x b)
    flag := State.reg_setFlag_vf _ flag
    others := fun _ hk hf => (State.reg_setFlag_ne _ flag hf).trans (State.reg_setReg_ne s b hk)
    pc := rfl
    frame := sameBut_setRegs_advance s _ }⟩

/-! Results and flags as numbers (R143). -/

@[simp] theorem carryOut_eq_true (a b : Byte) : carryOut a b = true ↔ 255 < a.toNat + b.toNat := decide_eq_true_iff

@[simp] theorem noBorrow_eq_true (a b : Byte) : noBorrow a b = true ↔ b.toNat ≤ a.toNat := decide_eq_true_iff

theorem toNat_sub_byte (a b : Byte) : (a - b).toNat = (a.toNat + 256 - b.toNat) % 256 := by
  rw [BitVec.toNat_sub]
  omega

theorem toNat_ushiftRight_one (b : Byte) : (b >>> 1).toNat = b.toNat / 2 := by
  rw [BitVec.toNat_ushiftRight, Nat.shiftRight_eq_div_pow, pow_one]

theorem toNat_shiftLeft_one (b : Byte) : (b <<< 1).toNat = b.toNat * 2 % 256 := by
  rw [BitVec.toNat_shiftLeft, Nat.shiftLeft_eq, pow_one]

theorem toNat_shiftedOutRight (b : Byte) : (if shiftedOutRight b then 1 else 0 : Byte).toNat = b.toNat % 2 := by
  simp only [shiftedOutRight, BitVec.getLsbD, Nat.testBit_zero, decide_eq_true_eq]
  split
  · next odd => exact odd.symm
  · next even => exact (Nat.mod_two_ne_one.1 even).symm

/-- Bit 7 of a byte is its quotient by 128, which is 0 or 1. -/
theorem toNat_shiftedOutLeft (b : Byte) : (if shiftedOutLeft b then 1 else 0 : Byte).toNat = b.toNat / 128 := by
  have hb := b.isLt
  simp only [shiftedOutLeft, BitVec.getLsbD, Nat.testBit_eq_decide_div_mod_eq, decide_eq_true_eq]
  split
  · next set => change 1 = b.toNat / 128; omega
  · next clear => change 0 = b.toNat / 128; omega

/-- A difference and its no-borrow flag, for SUB and SUBN alike (R138, R139). -/
theorem writeRegFlag_sub (x : Nibble) (a b : Byte) (s : State) :
    ∃ t, writeRegFlag x (a - b) (noBorrow a b) s = .next t ∧
      (x ≠ 15 → (t.reg x).toNat = (a.toNat + 256 - b.toNat) % 256) ∧
      t.reg 15 = (if b.toNat ≤ a.toNat then 1 else 0) ∧
      (∀ k, k ≠ x → k ≠ 15 → t.reg k = s.reg k) ∧ t.pc = s.pc + 2 ∧ SameBut [.v, .pc] s t := by
  obtain ⟨t, ht, w⟩ := writeRegFlag_next x (a - b) (noBorrow a b) s
  exact ⟨t, ht, fun hx => by rw [w.dest hx, toNat_sub_byte], by simpa using w.flag, w.others, w.pc, w.frame⟩

/-! The obligations. -/

/-- Settles O26: the write of `NN` to `V[x]`. -/
theorem loadByteResult : Obligations.LoadByteResult := by
  intro x nn s
  obtain ⟨t, ht, w⟩ := writeReg_next x nn s
  exact ⟨isWordOf_ldByte x nn, t, ht, w.dest, w.others, w.pc, w.frame⟩

/-- Settles O27: the write of the sum to `V[x]`, by `writeReg`, which writes no flag. -/
theorem addByteResult : Obligations.AddByteResult := by
  intro x nn s
  obtain ⟨t, ht, w⟩ := writeReg_next x (s.reg x + nn) s
  have sum : (t.reg x).toNat = ((s.reg x).toNat + nn.toNat) % 256 := by rw [w.dest, BitVec.toNat_add]
  exact ⟨isWordOf_addByte x nn, t, ht, sum, w.others, w.pc, w.frame⟩

/-- Settles O28: the write of `V[y]` to `V[x]`. -/
theorem loadRegisterResult : Obligations.LoadRegisterResult := by
  intro x y s
  obtain ⟨t, ht, w⟩ := writeReg_next x (s.reg y) s
  exact ⟨isWordOf_class8 (by simp [decodeClass8]), t, ht, w.dest, w.others, w.pc, w.frame⟩

/-- Settles O29: the three writes by `writeReg`, with the bits of `|||`, `&&&` and `^^^`. -/
theorem logicResults : Obligations.LogicResults := by
  intro x y s
  refine ⟨?or, ?and, ?xor⟩
  case or =>
    obtain ⟨t, ht, w⟩ := writeReg_next x (s.reg x ||| s.reg y) s
    exact ⟨isWordOf_class8 (by simp [decodeClass8]), t, ht, fun b => by rw [w.dest, BitVec.getLsbD_or], w.others, w.pc,
      w.frame⟩
  case and =>
    obtain ⟨t, ht, w⟩ := writeReg_next x (s.reg x &&& s.reg y) s
    exact ⟨isWordOf_class8 (by simp [decodeClass8]), t, ht, fun b => by rw [w.dest, BitVec.getLsbD_and], w.others, w.pc,
      w.frame⟩
  case xor =>
    obtain ⟨t, ht, w⟩ := writeReg_next x (s.reg x ^^^ s.reg y) s
    exact ⟨isWordOf_class8 (by simp [decodeClass8]), t, ht, fun b => by rw [w.dest, BitVec.getLsbD_xor], w.others, w.pc,
      w.frame⟩

/-- Settles O30: the write of the sum, then of its carry. -/
theorem addRegistersResult : Obligations.AddRegistersResult := by
  intro x y s
  obtain ⟨t, ht, w⟩ := writeRegFlag_next x (s.reg x + s.reg y) (carryOut (s.reg x) (s.reg y)) s
  have sum (hx : x ≠ 15) : (t.reg x).toNat = ((s.reg x).toNat + (s.reg y).toNat) % 256 := by
    rw [w.dest hx, BitVec.toNat_add]
  exact ⟨isWordOf_class8 (by simp [decodeClass8]), t, ht, sum, by simpa using w.flag, w.others, w.pc, w.frame⟩

/-- Settles O31: the difference with `V[x]` as the minuend. -/
theorem subtractResult : Obligations.SubtractResult := fun x y s =>
  ⟨isWordOf_class8 (by simp [decodeClass8]), writeRegFlag_sub x (s.reg x) (s.reg y) s⟩

/-- Settles O32: the difference with `V[y]` as the minuend. -/
theorem reverseSubtractResult : Obligations.ReverseSubtractResult := fun x y s =>
  ⟨isWordOf_class8 (by simp [decodeClass8]), writeRegFlag_sub x (s.reg y) (s.reg x) s⟩

/-- Settles O33: the write of the operand's half, then of its bit 0, for either value of `SHIFT_USES_VY`. -/
theorem shiftRightResult : Obligations.ShiftRightResult := by
  intro x y s
  obtain ⟨t, ht, w⟩ := writeRegFlag_next x (s.shiftOperand shiftUsesVy x y >>> 1)
    (shiftedOutRight (s.shiftOperand shiftUsesVy x y)) s
  exact ⟨isWordOf_class8 (by simp [decodeClass8]), t, s.shiftOperand shiftUsesVy x y, rfl, ht,
    fun hx => by rw [w.dest hx, toNat_ushiftRight_one], by rw [w.flag, toNat_shiftedOutRight], w.others, w.pc, w.frame⟩

/-- Settles O34: the write of the operand's double, then of its bit 7, for either value of `SHIFT_USES_VY`. -/
theorem shiftLeftResult : Obligations.ShiftLeftResult := by
  intro x y s
  obtain ⟨t, ht, w⟩ := writeRegFlag_next x (s.shiftOperand shiftUsesVy x y <<< 1)
    (shiftedOutLeft (s.shiftOperand shiftUsesVy x y)) s
  exact ⟨isWordOf_class8 (by simp [decodeClass8]), t, s.shiftOperand shiftUsesVy x y, rfl, ht,
    fun hx => by rw [w.dest hx, toNat_shiftLeft_one], by rw [w.flag, toNat_shiftedOutLeft], w.others, w.pc, w.frame⟩

end Sys2Proof.Machine
end

section
/-! The framebuffer instructions (42_display.md). A draw that raises nothing leaves `s.drawn (blit …)`: what that state is,
and when `drawAt` answers it, is said once, and each obligation on DRW follows. -/

namespace Sys2Proof.Machine

/-! CLS (R171). -/

theorem isWordOf_cls : IsWordOf 0x00E0 .cls := fun _ => rfl

/-- CLS changes nothing but the framebuffer, its two outputs and `PC`. -/
theorem sameBut_setFb_setOutputs_advance (s : State) (fb : Vector (BitVec 64) 32) (redraw clear : Bool) :
    SameBut [.fb, .clear, .redraw, .pc] s ((s.setFb fb).setOutputs redraw clear).advance := by
  intro p hp
  cases p with
  | fb | clear | redraw | pc => simp at hp
  | mem | v => exact fun _ => rfl
  | stack => exact fun _ _ _ => rfl
  | _ => rfl

/-- Settles O36: the framebuffer of zeros, with both outputs set. -/
theorem clearScreenResult : Obligations.ClearScreenResult :=
  ⟨isWordOf_cls, fun s => ⟨_, rfl, fun px py _ _ => fbPixel_replicate_zero px py, rfl, rfl, rfl,
    sameBut_setFb_setOutputs_advance s _ true true⟩⟩

/-! DRW: the state a draw leaves (R172, R174, R176). -/

theorem isWordOf_drw (x y n : Nibble) : IsWordOf (0xD#4 ++ x ++ y ++ n) (.drw x y n) := by
  intro mode
  simp [decodeWord]

theorem State.reg_drawn_vf (s : State) (d : Blit) : (s.drawn d).reg 15 = if d.collision then 1 else 0 :=
  State.reg_setFlag_vf _ d.collision

theorem State.reg_drawn_ne (s : State) (d : Blit) {k : Nibble} (hk : k ≠ 15) : (s.drawn d).reg k = s.reg k :=
  State.reg_setFlag_ne _ d.collision hk

theorem sameBut_drawn (s : State) (d : Blit) : SameBut [.fb, .v, .pc, .redraw] s (s.drawn d) := by
  intro p hp
  cases p with
  | fb | v | pc | redraw => simp at hp
  | mem => exact fun _ => rfl
  | stack => exact fun _ _ _ => rfl
  | _ => rfl

/-- The state DRW leaves when it raises nothing. -/
def State.afterDraw (edge : SpriteEdge) (x y n : Nibble) (s : State) : State :=
  s.drawn (blit edge s.fb (s.drawBits x y n))

theorem drawn_afterDraw (edge : SpriteEdge) (x y n : Nibble) (s : State) : Drawn edge x y n s (s.afterDraw edge x y n) := by
  obtain ⟨flipped, kept, collision⟩ := blit_drawBits edge s x y n
  refine ⟨fun px py _ _ h => flipped px py h, fun px py _ _ h => kept px py h, fun hit => ?_, fun miss => ?_,
    fun k hk => State.reg_drawn_ne s _ hk, rfl, rfl, sameBut_drawn s _⟩
  · rw [State.afterDraw, State.reg_drawn_vf, if_pos (collision.2 hit)]
  · refine (State.reg_drawn_vf s _).trans (if_neg fun set => ?_)
    obtain ⟨px, py, covered, on⟩ := collision.1 set
    rw [miss px py covered] at on
    cases on

/-! DRW: when it draws, and when it raises (R175, R246, R251). -/

/-- DRW raises nothing: its bytes lie in memory, and under `fault` no set bit is off screen. -/
def CanDraw (edge : SpriteEdge) (s : State) (x y n : Nibble) : Prop :=
  BlockInMemory s n.toNat ∧ (edge = .fault → ∀ r c, ¬OffScreen s x y n r c)

theorem firstOutOfRange_eq_none_iff_blockInMemory {s : State} {n : Nat} :
    firstOutOfRange (s.effAddr 0) n = none ↔ BlockInMemory s n :=
  firstOutOfRange_eq_none_iff

theorem drawSprite_of_onScreen {edge : SpriteEdge} {s : State} {x y n : Nibble}
    (h : edge = .fault → ∀ r c, ¬OffScreen s x y n r c) :
    drawSprite edge (s.drawBits x y n) s = .next (s.afterDraw edge x y n) := by
  unfold drawSprite
  split
  · rfl
  · next first =>
    refine if_neg fun he => ?_
    rw [firstOffending_drawBits_eq_none.2 (h he)] at first
    cases first

theorem drawAt_of_canDraw {edge : SpriteEdge} {s : State} {x y n : Nibble} (h : CanDraw edge s x y n) :
    drawAt edge x y n s = .next (s.afterDraw edge x y n) := by
  obtain ⟨hb, ho⟩ := h
  rw [drawAt, firstOutOfRange_eq_none_iff_blockInMemory.2 hb]
  exact drawSprite_of_onScreen ho

theorem halted_of_raise {c : Cause} {info : Nat} {s t : State} (h : raise c info s = .next t) : t.halted = true := by
  cases h; rfl

theorem canDraw_of_running {edge : SpriteEdge} {s t : State} {x y n : Nibble} (h : drawAt edge x y n s = .next t)
    (ht : t.halted = false) : CanDraw edge s x y n := by
  have notRaised {c : Cause} {info : Nat} : raise c info s ≠ .next t := fun e => by
    rw [halted_of_raise e] at ht
    cases ht
  unfold drawAt at h
  split at h
  · exact absurd h notRaised
  · next inRange =>
    refine ⟨firstOutOfRange_eq_none_iff_blockInMemory.1 inRange, ?_⟩
    rintro rfl
    unfold drawSprite at h
    split at h
    · next noneOffends => exact firstOffending_drawBits_eq_none.1 noneOffends
    · exact absurd h notRaised

/-- Settles O38: `drawAt` under any edge behaviour, where it raises nothing. -/
theorem drawUnderEveryEdge : Obligations.DrawUnderEveryEdge := fun x y n s =>
  ⟨rfl, fun edge hb ho => ⟨_, drawAt_of_canDraw ⟨hb, ho⟩, drawn_afterDraw edge x y n s⟩⟩

/-- Settles O37: with every set bit on screen, DRW raises nothing under the machine's own edge behaviour. -/
theorem drawOnScreenResult : Obligations.DrawOnScreenResult := fun x y n s =>
  ⟨isWordOf_drw x y n, fun hb ho => ⟨_, drawAt_of_canDraw ⟨hb, fun _ => ho⟩, drawn_afterDraw spriteEdge x y n s⟩⟩

/-! DRW twice (R177). What a draw covers depends on its origin, `I` and memory alone. -/

/-- `s` and `u` give DRW Vx, Vy the same origin, the same index and the same bytes. -/
structure SameSprite (x y : Nibble) (s u : State) : Prop where
  col : u.reg x = s.reg x
  row : u.reg y = s.reg y
  index : u.ireg = s.ireg
  bytes : ∀ a, u.byteAt a = s.byteAt a

section
variable {x y : Nibble} {s u : State} (h : SameSprite x y s u)
include h

theorem SameSprite.spriteBit (r c : Nat) : u.spriteBit r c = s.spriteBit r c := by
  rw [State.spriteBit, State.spriteBit, h.index, h.bytes]

theorem SameSprite.covers_iff {edge : SpriteEdge} {n : Nibble} {px py : Nat} :
    Covers edge u x y n px py ↔ Covers edge s x y n px py := by
  simp only [Covers, h.spriteBit, h.col, h.row]

theorem SameSprite.offScreen_iff {n : Nibble} {r c : Nat} : OffScreen u x y n r c ↔ OffScreen s x y n r c := by
  simp only [OffScreen, h.spriteBit, h.col, h.row]

theorem SameSprite.canDraw_iff {edge : SpriteEdge} {n : Nibble} : CanDraw edge u x y n ↔ CanDraw edge s x y n := by
  simp only [CanDraw, BlockInMemory, h.index, h.offScreen_iff]

end

theorem Covers.inGrid {edge : SpriteEdge} {s : State} {x y n : Nibble} {px py : Nat} (h : Covers edge s x y n px py) :
    px < 64 ∧ py < 32 := by
  obtain ⟨r, c, -, -, -, lands⟩ := h
  exact lands.inGrid

/-- Settles O40: the second draw can run and covers the pixels the first covered. A covered pixel is flipped twice, and the
second draw finds it set exactly when the first turned it from 0 to 1. -/
theorem drawTwiceRestores : Obligations.DrawTwiceRestores := by
  intro x y n s t u ht running hx hy hi hm hfb
  have same : SameSprite x y s u := ⟨hx, hy, hi, hm⟩
  have can : CanDraw spriteEdge s x y n := canDraw_of_running ht running
  obtain rfl : s.afterDraw spriteEdge x y n = t := Host.Outcome.next.inj ((drawAt_of_canDraw can).symm.trans ht)
  obtain ⟨flip₁, keep₁, -⟩ := drawn_afterDraw spriteEdge x y n s
  obtain ⟨flip₂, keep₂, hit₂, miss₂, -⟩ := drawn_afterDraw spriteEdge x y n u
  refine ⟨_, drawAt_of_canDraw (same.canDraw_iff.2 can), fun px py hpx hpy => ?restored, ?sets, fun noneSet => ?clears⟩
  case restored =>
    by_cases covered : Covers spriteEdge s x y n px py
    · rw [flip₂ px py hpx hpy (same.covers_iff.2 covered), hfb px py hpx hpy, flip₁ px py hpx hpy covered, Bool.not_not]
    · rw [keep₂ px py hpx hpy (mt same.covers_iff.1 covered), hfb px py hpx hpy, keep₁ px py hpx hpy covered]
  case sets =>
    rintro ⟨px, py, hpx, hpy, off, on⟩
    have covered : Covers spriteEdge s x y n px py := by
      by_contra uncovered
      rw [keep₁ px py hpx hpy uncovered, off] at on
      cases on
    exact hit₂ ⟨px, py, same.covers_iff.2 covered, (hfb px py hpx hpy).trans on⟩
  case clears =>
    refine miss₂ fun px py covered => ?_
    obtain ⟨hpx, hpy⟩ := covered.inGrid
    have flipped := flip₁ px py hpx hpy (same.covers_iff.1 covered)
    rw [hfb px py hpx hpy]
    cases before : s.pixel px py with
    | false => exact noneSet px py hpx hpy before
    | true => rw [flipped, before, Bool.not_true]

end Sys2Proof.Machine
end

section
/-! The index register and the memory transfers (43_memory_index.md). The frame of each instruction is composed from the
frames of its writes, and a range-checked transfer runs or raises by whether its block lies in memory. -/

namespace Sys2Proof.Machine

/-! Words of classes A and F (R79, R83). -/

theorem isWordOf_ldI (nnn : Addr) : IsWordOf (0xA#4 ++ nnn) (.ldI nnn) := by
  intro mode
  simp [decodeWord]

/-- A word of class F is what its second level says, under either `DECODE_5_9`. -/
theorem isWordOf_classF {x : Nibble} {nn : Byte} {i : Instr} (h : decodeClassF (0xF#4 ++ x ++ nn) = .ok i) :
    IsWordOf (0xF#4 ++ x ++ nn) i := by
  intro mode
  simpa [decodeWord] using h

/-! Frames: each write changes its own part, and frames compose. -/

theorem Part.same_refl (p : Part) (s : State) : p.same s s := by
  cases p with
  | mem | v => exact fun _ => rfl
  | stack => exact fun _ _ _ => rfl
  | fb => exact fun _ _ _ _ => rfl
  | _ => rfl

theorem Part.same_trans {p : Part} {s t u : State} (h : p.same s t) (h' : p.same t u) : p.same s u := by
  cases p with
  | mem | v => exact fun a => (h' a).trans (h a)
  | stack => exact fun k h1 h2 => (h' k h1 h2).trans (h k h1 h2)
  | fb => exact fun px py hx hy => (h' px py hx hy).trans (h px py hx hy)
  | _ => exact Eq.trans h' h

theorem SameBut.trans {ps qs : List Part} {s t u : State} (h : SameBut ps s t) (h' : SameBut qs t u) :
    SameBut (ps ++ qs) s u := by
  intro p hp
  rw [List.mem_append, not_or] at hp
  exact Part.same_trans (h p hp.1) (h' p hp.2)

theorem sameBut_setI (s : State) (w : Word) : SameBut [.i] s (s.setI w) := by
  intro p hp
  have same := Part.same_refl p s
  cases p with
  | i => simp at hp
  | _ => exact same

theorem sameBut_setMem (s : State) (m : Memory) : SameBut [.mem] s (s.setMem m) := by
  intro p hp
  have same := Part.same_refl p s
  cases p with
  | mem => simp at hp
  | _ => exact same

theorem sameBut_setRegs (s : State) (v : Vector (BitVec 8) 16) : SameBut [.v] s (s.setRegs v) := by
  intro p hp
  have same := Part.same_refl p s
  cases p with
  | v => simp at hp
  | _ => exact same

theorem sameBut_advance (s : State) : SameBut [.pc] s s.advance := by
  intro p hp
  have same := Part.same_refl p s
  cases p with
  | pc => simp at hp
  | _ => exact same

theorem sameBut_takeFatal (s : State) (c : Cause) (w info : Word) : SameBut fatalParts s (s.takeFatal c w info) := by
  intro p hp
  have same := Part.same_refl p s
  cases p with
  | halted | fault | redraw | clear => simp [fatalParts] at hp
  | _ => exact same

theorem sameBut_advanceI (s : State) (increments : Bool) (x : Nibble) : SameBut [.i] s (s.advanceI increments x) := by
  cases increments with
  | false => exact fun p _ => Part.same_refl p s
  | true => exact sameBut_setI s _

/-! Raising (R243, R249). -/

theorem raise_next (c : Cause) (info : Nat) (s : State) :
    ∃ t, raise c info s = .next t ∧ Fatal c s.fetchedWord (BitVec.ofNat 16 info) s t :=
  ⟨_, rfl, rfl, rfl, rfl, rfl, sameBut_takeFatal s _ _ _⟩

theorem checked_of_blockInMemory {n : Nat} {s : State} (h : BlockInMemory s n) (t : State) :
    checked n s t = .next t := by
  rw [checked, firstOutOfRange_eq_none_iff_blockInMemory.2 h]

theorem firstOutOfRange_of_not_blockInMemory {n : Nat} {s : State} (h : ¬BlockInMemory s n) :
    firstOutOfRange (s.effAddr 0) n = some s.firstBad := by
  obtain ⟨nonempty, beyond⟩ := not_or.1 h
  exact firstOutOfRange_eq_some nonempty (Nat.not_le.1 beyond)

/-- A transfer whose block leaves memory raises before any write, whatever it would write. -/
theorem checked_of_not_blockInMemory {n : Nat} {s : State} (h : ¬BlockInMemory s n) (t : State) :
    ∃ u, checked n s t = .next u ∧ Fatal .dataOutOfRange s.fetchedWord (BitVec.ofNat 16 s.firstBad) s u := by
  rw [checked, firstOutOfRange_of_not_blockInMemory h]
  exact raise_next .dataOutOfRange s.firstBad s

/-! The index register (R25, R181, R182, R183). -/

theorem writeI_next (w : Word) (s : State) :
    ∃ t, writeI w s = .next t ∧ t.ireg = w ∧ t.pc = s.pc + 2 ∧ SameBut [.i, .pc] s t :=
  ⟨_, rfl, rfl, rfl, (sameBut_setI s w).trans (sameBut_advance _)⟩

theorem toNat_zextAddr (nnn : Addr) : (zextAddr nnn).toNat = nnn.toNat :=
  BitVec.toNat_setWidth_of_le (by decide)

theorem toNat_zextByte (b : Byte) : (zextByte b).toNat = b.toNat :=
  BitVec.toNat_setWidth_of_le (by decide)

/-- No glyph address of a digit wraps. -/
theorem toNat_glyphAddress {d : Nat} (h : d ≤ 15) : (glyphAddress d).toNat = d * 5 := by
  simp only [glyphAddress, Config.fontBase, Config.glyphStride, BitVec.toNat_ofNat]
  omega

theorem State.toNat_ireg_advanceI (s : State) (increments : Bool) (x : Nibble) :
    (s.advanceI increments x).ireg.toNat =
      if increments then (s.ireg.toNat + x.toNat + 1) % 65536 else s.ireg.toNat := by
  cases increments with
  | false => rfl
  | true => exact BitVec.toNat_ofNat ..

/-! Blocks of bytes in memory and in registers (R184, R185, R186). -/

/-- Memory of `t` is that of `s` with the bytes `us` from `I` on and no other byte changed. -/
structure StoredBlock (us : List Byte) (s t : State) : Prop where
  inside : ∀ k (h : k < us.length), t.byteAt (s.effAddr k) = us[k]
  outside : ∀ a, a < s.effAddr 0 ∨ s.effAddr us.length ≤ a → t.byteAt a = s.byteAt a

theorem storedBlock_of_mem {us : List Byte} {s t : State} (ht : t.mem = Memory.writeBytes s.mem (s.effAddr 0) us)
    (wf : Memory.wf s.mem = true) (inMem : s.ireg.toNat + us.length ≤ 0x1000) : StoredBlock us s t where
  inside k h := by
    rw [State.byteAt, ht]
    exact Memory.read_writeBytes_inside wf us inMem h
  outside a h := by
    rw [State.byteAt, ht]
    exact Memory.read_writeBytes_outside s.mem us h

theorem State.getElem_regBlock (s : State) {x k : Nibble} (h : k.toNat < (s.regBlock x).length) :
    (s.regBlock x)[k.toNat] = s.reg k := by
  simp [State.regBlock, State.reg]

theorem State.reg_setRegs_loadBlock (s : State) (n : Nat) (k : Nibble) :
    (s.setRegs (loadBlock s.mem (s.effAddr 0) n s.v)).reg k =
      if k.toNat < n then s.byteAt (s.effAddr k.toNat) else s.reg k :=
  loadBlock_getElem s.mem (s.effAddr 0) n s.v k.toNat k.isLt

/-! The obligations. -/

/-- Settles O44: the three bytes are the decimal digits, each below 10, written as one block. -/
theorem decimalDigitsResult : Obligations.DecimalDigitsResult := by
  intro x s
  refine ⟨isWordOf_classF (by simp [decodeClassF]), fun wf inMem => ?runs,
    fun out => checked_of_not_blockInMemory out _⟩
  case runs =>
    have fits : s.ireg.toNat + 3 ≤ 0x1000 := inMem.resolve_left (by decide)
    have stored : StoredBlock (bcdDigits (s.reg x)) s
        (s.setMem (Memory.writeBytes s.mem (s.effAddr 0) (bcdDigits (s.reg x)))).advance :=
      storedBlock_of_mem rfl wf fits
    have digit {d : Nat} (h : d < 256) : (BitVec.ofNat 8 d).toNat = d :=
      (BitVec.toNat_ofNat ..).trans (Nat.mod_eq_of_lt h)
    have bound : (s.reg x).toNat < 256 := (s.reg x).isLt
    refine ⟨_, checked_of_blockInMemory inMem _, ?hundreds, ?tens, ?ones, stored.outside, rfl,
      (sameBut_setMem s _).trans (sameBut_advance _)⟩
    case hundreds => exact (congrArg BitVec.toNat (stored.inside 0 (by simp [bcdDigits]))).trans (digit (by omega))
    case tens => exact (congrArg BitVec.toNat (stored.inside 1 (by simp [bcdDigits]))).trans (digit (by omega))
    case ones => exact (congrArg BitVec.toNat (stored.inside 2 (by simp [bcdDigits]))).trans (digit (by omega))

/-- Settles O45: the registers are written as one block, for either value of `LOADSTORE_INCREMENTS_I`. -/
theorem storeRegistersResult : Obligations.StoreRegistersResult := by
  intro x s
  refine ⟨isWordOf_classF (by simp [decodeClassF]), fun wf inMem => ?runs,
    fun out => checked_of_not_blockInMemory out _⟩
  case runs =>
    have len : (s.regBlock x).length = x.toNat + 1 := State.length_regBlock s x
    have fits : s.ireg.toNat + (s.regBlock x).length ≤ 0x1000 := len ▸ inMem.resolve_left (Nat.succ_ne_zero _)
    have stored : StoredBlock (s.regBlock x) s
        ((s.setMem (Memory.writeBytes s.mem (s.effAddr 0) (s.regBlock x))).advanceI loadStoreIncrementsI x).advance :=
      storedBlock_of_mem (by simp) wf fits
    refine ⟨_, checked_of_blockInMemory inMem _, fun k hk => ?inside, len ▸ stored.outside,
      State.toNat_ireg_advanceI (s.setMem _) _ x, by simp,
      ((sameBut_setMem s _).trans (sameBut_advanceI _ _ x)).trans (sameBut_advance _)⟩
    case inside =>
      have below : k.toNat < (s.regBlock x).length := by omega
      rw [stored.inside k.toNat below, State.getElem_regBlock]

/-- Settles O46: the registers are filled as one block, for either value of `LOADSTORE_INCREMENTS_I`. -/
theorem loadRegistersResult : Obligations.LoadRegistersResult := by
  intro x s
  refine ⟨isWordOf_classF (by simp [decodeClassF]), fun inMem => ?runs,
    fun out => checked_of_not_blockInMemory out _⟩
  case runs =>
    have filled (k : Nibble) :
        ((s.setRegs (loadBlock s.mem (s.effAddr 0) (x.toNat + 1) s.v)).advanceI loadStoreIncrementsI x).advance.reg k =
          if k.toNat < x.toNat + 1 then s.byteAt (s.effAddr k.toNat) else s.reg k := by
      rw [State.reg_advance, State.reg_advanceI, State.reg_setRegs_loadBlock]
    exact ⟨_, checked_of_blockInMemory inMem _, fun k hk => (filled k).trans (if_pos (Nat.lt_succ_of_le hk)),
      fun k hk => (filled k).trans (if_neg (Nat.not_lt.2 hk)), State.toNat_ireg_advanceI (s.setRegs _) _ x, by simp,
      ((sameBut_setRegs s _).trans (sameBut_advanceI _ _ x)).trans (sameBut_advance _)⟩

/-- Settles O41: the write of the zero-extended address to `I`. -/
theorem loadIndexResult : Obligations.LoadIndexResult := by
  intro nnn s
  obtain ⟨t, ht, index, pc, frame⟩ := writeI_next (zextAddr nnn) s
  exact ⟨isWordOf_ldI nnn, t, ht, by rw [index, toNat_zextAddr], pc, frame⟩

/-- Settles O42: the write of the 16-bit sum to `I`, by `writeI`, which writes no flag. -/
theorem addIndexResult : Obligations.AddIndexResult := by
  intro x s
  obtain ⟨t, ht, index, pc, frame⟩ := writeI_next (s.ireg + zextByte (s.reg x)) s
  exact ⟨isWordOf_classF (by simp [decodeClassF]), t, ht, by rw [index, BitVec.toNat_add, toNat_zextByte], pc, frame⟩

/-- Settles O43: the write of the glyph's address to `I`, or the raise for a value that is no digit. -/
theorem fontAddressResult : Obligations.FontAddressResult := by
  refine ⟨rfl, fun x s => ⟨isWordOf_classF (by simp [decodeClassF]), fun digit => ?runs, fun large => ?raises⟩⟩
  case runs =>
    obtain ⟨t, ht, index, pc, frame⟩ := writeI_next (glyphAddress (s.reg x).toNat) s
    exact ⟨t, (if_neg (Nat.not_lt.2 digit)).trans ht, by rw [index, toNat_glyphAddress digit], pc, frame⟩
  case raises =>
    obtain ⟨t, ht, fatal⟩ := raise_next .fontDigitOutOfRange (s.reg x).toNat s
    rw [BitVec.ofNat_toNat] at fatal
    exact ⟨t, (if_pos large).trans ht, fatal⟩

end Sys2Proof.Machine
end

section
/-! Jumps, calls and register skips (44_control_flow.md). Every one of them ends in a write of `PC`, so the frame of that
write is said once; a call adds the frame of its push, and a skip the two addresses it can end at. -/

namespace Sys2Proof.Machine

/-! Words of classes 1 to 5, 9 and B (R79, R84). -/

theorem isWordOf_jp (nnn : Addr) : IsWordOf (0x1#4 ++ nnn) (.jp nnn) := by
  intro mode
  simp [decodeWord]

theorem isWordOf_call (nnn : Addr) : IsWordOf (0x2#4 ++ nnn) (.call nnn) := by
  intro mode
  simp [decodeWord]

theorem isWordOf_jpV0 (nnn : Addr) : IsWordOf (0xB#4 ++ nnn) (.jpV0 nnn) := by
  intro mode
  simp [decodeWord]

theorem isWordOf_seByte (x : Nibble) (nn : Byte) : IsWordOf (0x3#4 ++ x ++ nn) (.seByte x nn) := by
  intro mode
  simp [decodeWord]

theorem isWordOf_sneByte (x : Nibble) (nn : Byte) : IsWordOf (0x4#4 ++ x ++ nn) (.sneByte x nn) := by
  intro mode
  simp [decodeWord]

/-- A word of class 5 is SE when `DECODE_5_9` allows its low nibble, and illegal otherwise. -/
theorem decodeWord_class5 (mode : Decode59) (x y n : Nibble) :
    decodeWord mode (0x5#4 ++ x ++ y ++ n) =
      if lowNibbleOk mode n then .ok (.seReg x y n) else .error (.unknownLowNibble (0x5#4 ++ x ++ y ++ n)) := by
  simp [decodeWord, decodeLowNibble]

/-- A word of class 9 is SNE when `DECODE_5_9` allows its low nibble, and illegal otherwise. -/
theorem decodeWord_class9 (mode : Decode59) (x y n : Nibble) :
    decodeWord mode (0x9#4 ++ x ++ y ++ n) =
      if lowNibbleOk mode n then .ok (.sneReg x y n) else .error (.unknownLowNibble (0x9#4 ++ x ++ y ++ n)) := by
  simp [decodeWord, decodeLowNibble]

theorem lowNibbleOk_zero (mode : Decode59) : lowNibbleOk mode 0 = true := rfl

theorem lowNibbleOk_ignore (n : Nibble) : lowNibbleOk .ignore n = true := Bool.or_true _

theorem not_lowNibbleOk_fault {n : Nibble} (h : n ≠ 0) : ¬lowNibbleOk .fault n = true := by
  simpa [lowNibbleOk] using h

/-! Frames of the writes (R26, R27, R28). -/

theorem sameBut_setPc (s : State) (w : Word) : SameBut [.pc] s (s.setPc w) := by
  intro p hp
  have same := Part.same_refl p s
  cases p with
  | pc => simp at hp
  | _ => exact same

theorem sameBut_push (s : State) (w : Word) : SameBut [.sp, .stack] s (s.push w) := by
  intro p hp
  have same := Part.same_refl p s
  cases p with
  | sp | stack => simp at hp
  | _ => exact same

/-! Targets and depths as numbers (R204, R28, R209). -/

/-- A 12-bit address and a byte sum to less than 2^16. -/
theorem toNat_zextAddr_add_zextByte (nnn : Addr) (b : Byte) :
    (zextAddr nnn + zextByte b).toNat = nnn.toNat + b.toNat := by
  have hn := nnn.isLt
  have hb := b.isLt
  rw [BitVec.toNat_add, toNat_zextAddr, toNat_zextByte]
  omega

theorem State.toNat_sp_push {s : State} (w : Word) (h : s.sp.toNat < 16) : (s.push w).sp.toNat = s.sp.toNat + 1 := by
  rw [State.push_sp, BitVec.toNat_add]
  exact Nat.mod_eq_of_lt (by change s.sp.toNat + 1 < 32; omega)

/-- A skip ends after the following word when it is taken, and at the following word when it is not. -/
theorem State.pc_skipIf (s : State) (c : Bool) : (s.skipIf c).pc = if c then s.pc + 4 else s.pc + 2 := by
  rw [State.skipIf_pc, BitVec.add_assoc]
  rfl

/-- A skip whose test decides `P` skips exactly when `P` holds, and changes nothing but `PC`. -/
theorem skipIf_next (s : State) {c : Bool} {P : Prop} [Decidable P] (test : c = true ↔ P) :
    ∃ t, (.next (s.skipIf c) : Result) = .next t ∧ t.pc = (if P then s.pc + 4 else s.pc + 2) ∧ SameBut [.pc] s t :=
  ⟨_, rfl, (State.pc_skipIf s c).trans (if_congr test rfl rfl), sameBut_setPc s _⟩

/-- A skip whose test decides `¬P` skips exactly when `P` fails, and changes nothing but `PC`. -/
theorem skipIf_next_of_not (s : State) {c : Bool} {P : Prop} [Decidable P] (test : c = true ↔ ¬P) :
    ∃ t, (.next (s.skipIf c) : Result) = .next t ∧ t.pc = (if P then s.pc + 2 else s.pc + 4) ∧ SameBut [.pc] s t := by
  simpa only [ite_not] using skipIf_next s test

/-! When CALL runs and when it raises (R201, R244). -/

theorem execCall_of_lt {nnn : Addr} {s : State} (h : s.sp.toNat < 16) :
    execCall nnn s = .next ((s.push s.pcNext).setPc (zextAddr nnn)) := if_pos h

theorem execCall_of_full {nnn : Addr} {s : State} (h : s.sp.toNat = 16) :
    execCall nnn s = raise .stackOverflow 16 s := (if_neg h.not_lt).trans (if_pos h)

/-! The obligations. -/

/-- Settles O49: the write of the zero-extended address to `PC`. -/
theorem jumpResult : Obligations.JumpResult := fun nnn s =>
  ⟨isWordOf_jp nnn, _, rfl, toNat_zextAddr nnn, sameBut_setPc s _⟩

/-- Settles O50: the write of the sum to `PC`, which cannot wrap. -/
theorem jumpOffsetResult : Obligations.JumpOffsetResult := fun nnn s =>
  ⟨isWordOf_jpV0 nnn, _, rfl, toNat_zextAddr_add_zextByte nnn (s.reg 0), sameBut_setPc s _⟩

/-- Settles O51: the push of `pc_next` and the write of `PC`, or the raise when all 16 slots are in use. -/
theorem callResult : Obligations.CallResult := by
  refine ⟨rfl, fun nnn s => ⟨isWordOf_call nnn, fun room => ?runs, fun full => ?raises⟩⟩
  case runs =>
    have depth : ((s.push s.pcNext).setPc (zextAddr nnn)).sp.toNat = s.sp.toNat + 1 := State.toNat_sp_push s.pcNext room
    refine ⟨_, execCall_of_lt room, depth, ?top, fun k positive other => ?others, toNat_zextAddr nnn,
      (sameBut_push s _).trans (sameBut_setPc _ _)⟩
    case top =>
      rw [depth]
      exact State.stackSlot_push_top s s.pcNext room
    case others =>
      rw [depth] at other
      exact State.stackSlot_push_ne s s.pcNext positive other
  case raises =>
    obtain ⟨t, ht, fatal⟩ := raise_next .stackOverflow 16 s
    exact ⟨t, (execCall_of_full full).trans ht, fatal⟩

/-- Settles O54: each skip by what its test decides, and the words of classes 5 and 9 by their low nibble. -/
theorem registerSkipResults : Obligations.RegisterSkipResults := fun x y n nn s =>
  ⟨isWordOf_seByte x nn, isWordOf_sneByte x nn,
    fun mode => (decodeWord_class5 mode x y 0).trans (if_pos (lowNibbleOk_zero mode)),
    fun mode => (decodeWord_class9 mode x y 0).trans (if_pos (lowNibbleOk_zero mode)),
    (decodeWord_class5 .ignore x y n).trans (if_pos (lowNibbleOk_ignore n)),
    (decodeWord_class9 .ignore x y n).trans (if_pos (lowNibbleOk_ignore n)),
    fun hn => ⟨⟨_, (decodeWord_class5 .fault x y n).trans (if_neg (not_lowNibbleOk_fault hn))⟩,
      ⟨_, (decodeWord_class9 .fault x y n).trans (if_neg (not_lowNibbleOk_fault hn))⟩⟩,
    skipIf_next s beq_iff_eq, skipIf_next_of_not s bne_iff_ne, skipIf_next s beq_iff_eq, skipIf_next_of_not s bne_iff_ne⟩

end Sys2Proof.Machine
end

section
/-! Key skips and timer transfers (45_keyboard_timer.md). Both key skips answer through `skipOnKey`, so when that skips and
when it raises is said once; a timer write adds its own frame to that of the advance. -/

namespace Sys2Proof.Machine

/-! Words of class E (R82). -/

/-- A word of class E is what its second level says, under either `DECODE_5_9`. -/
theorem isWordOf_classE {x : Nibble} {nn : Byte} {i : Instr} (h : decodeClassE (0xE#4 ++ x ++ nn) = .ok i) :
    IsWordOf (0xE#4 ++ x ++ nn) i := by
  intro mode
  simpa [decodeWord] using h

/-! When a key skip runs and when it raises (R221, R222, R247). -/

theorem skipOnKey_of_le {x : Nibble} {s : State} (h : (s.reg x).toNat ≤ 15) (down : Bool) :
    skipOnKey down x s = .next (s.skipIf (s.keyDown (s.reg x).toNat == down)) := if_neg (Nat.not_lt.2 h)

theorem skipOnKey_of_lt {x : Nibble} {s : State} (h : 15 < (s.reg x).toNat) (down : Bool) :
    ∃ t, skipOnKey down x s = .next t ∧ Fatal .keyIndexOutOfRange s.fetchedWord ((s.reg x).setWidth 16) s t := by
  obtain ⟨t, ht, fatal⟩ := raise_next .keyIndexOutOfRange (s.reg x).toNat s
  rw [BitVec.ofNat_toNat] at fatal
  exact ⟨t, (if_pos h).trans ht, fatal⟩

/-! Frames of the timer writes (R31). -/

theorem sameBut_setTimers_dt (s : State) (b : Byte) : SameBut [.dt] s (s.setTimers b s.st) := by
  intro p hp
  have same := Part.same_refl p s
  cases p with
  | dt => simp at hp
  | _ => exact same

theorem sameBut_setTimers_st (s : State) (b : Byte) : SameBut [.st] s (s.setTimers s.dt b) := by
  intro p hp
  have same := Part.same_refl p s
  cases p with
  | st => simp at hp
  | _ => exact same

/-! The obligations. -/

/-- Settles O55: SKP by whether the key is down and SKNP by whether it is not, or the raise when `V[x]` names no key. -/
theorem keySkipResults : Obligations.KeySkipResults := by
  refine ⟨rfl, fun x s => ⟨isWordOf_classE (by simp [decodeClassE]), isWordOf_classE (by simp [decodeClassE]),
    fun key => ⟨?skp, ?sknp⟩, fun noKey => ⟨skipOnKey_of_lt noKey true, skipOnKey_of_lt noKey false⟩⟩⟩
  case skp =>
    have runs : exec (.skp x) s = .next (s.skipIf (s.keyDown (s.reg x).toNat == true)) := skipOnKey_of_le key true
    rw [runs]
    exact skipIf_next s beq_iff_eq
  case sknp =>
    have runs : exec (.sknp x) s = .next (s.skipIf (s.keyDown (s.reg x).toNat == false)) := skipOnKey_of_le key false
    rw [runs]
    exact skipIf_next_of_not s (beq_iff_eq.trans (Bool.not_eq_true _).symm.to_iff)

/-- Settles O58: the write of `DT` to `V[x]`, and the two timer writes, of which `SOUND` reads the second. -/
theorem timerTransferResults : Obligations.TimerTransferResults := by
  intro x s
  obtain ⟨t, ht, w⟩ := writeReg_next x s.dt s
  exact ⟨isWordOf_classF (by simp [decodeClassF]), isWordOf_classF (by simp [decodeClassF]),
    isWordOf_classF (by simp [decodeClassF]),
    ⟨t, ht, w.dest, w.others, w.pc, w.frame⟩,
    ⟨_, rfl, rfl, rfl, (sameBut_setTimers_dt s _).trans (sameBut_advance _)⟩,
    ⟨_, rfl, rfl, rfl, rfl, (sameBut_setTimers_st s _).trans (sameBut_advance _)⟩⟩

end Sys2Proof.Machine
end

section
/-! Data and stack conditions (60_exceptions.md). A draw whose sprite bytes leave memory raises as the transfers through `I`
do, under any edge behaviour; a return pops or raises by its depth. -/

namespace Sys2Proof.Machine

/-! DataOutOfRange (R243). -/

/-- A draw whose sprite bytes leave memory raises before any pixel, whatever the edge behaviour (R251). -/
theorem drawAt_of_not_blockInMemory {edge : SpriteEdge} {x y n : Nibble} {s : State} (h : ¬BlockInMemory s n.toNat) :
    ∃ t, drawAt edge x y n s = .next t ∧
      Fatal .dataOutOfRange s.fetchedWord (BitVec.ofNat 16 s.firstBad) s t := by
  rw [drawAt, firstOutOfRange_of_not_blockInMemory h]
  exact raise_next .dataOutOfRange s.firstBad s

/-- Settles O47: the three transfers raise by the range check they share, and DRW by its own. -/
theorem dataBeyondMemoryHalts : Obligations.DataBeyondMemoryHalts := by
  refine ⟨rfl, fun s i len access out => ?_⟩
  obtain ⟨x, rfl, rfl⟩ | ⟨x, rfl, rfl⟩ | ⟨x, rfl, rfl⟩ | ⟨x, y, n, rfl, rfl⟩ := access
  case inl | inr.inl | inr.inr.inl => exact checked_of_not_blockInMemory out _
  case inr.inr.inr => exact drawAt_of_not_blockInMemory out

/-! RET (R202, R245). -/

theorem isWordOf_ret : IsWordOf 0x00EE .ret := fun _ => rfl

theorem sameBut_pop (s : State) : SameBut [.sp] s s.pop := by
  intro p hp
  have same := Part.same_refl p s
  cases p with
  | sp => simp at hp
  | _ => exact same

/-- Above depth 0 the decrement of `SP` does not wrap. -/
theorem State.toNat_sp_pop {s : State} (h : 1 ≤ s.sp.toNat) : s.pop.sp.toNat = s.sp.toNat - 1 :=
  BitVec.toNat_sub_of_le h

theorem execRet_of_empty {s : State} (h : s.sp.toNat = 0) : execRet s = raise .stackUnderflow 0 s := if_pos h

theorem execRet_of_pos {s : State} (positive : 1 ≤ s.sp.toNat) (depth : s.sp.toNat ≤ 16) :
    execRet s = .next (s.pop.setPc (s.stackSlot s.sp.toNat)) :=
  (if_neg (Nat.ne_of_gt positive)).trans (if_pos depth)

/-- Settles O52: the pop and the write of `PC`, neither of which writes the stack, or the raise when no slot is in use. -/
theorem returnResult : Obligations.ReturnResult := by
  refine ⟨rfl, isWordOf_ret, fun s => ⟨fun positive depth => ?runs, fun empty => ?raises⟩⟩
  case runs =>
    exact ⟨_, execRet_of_pos positive depth, rfl, State.toNat_sp_pop positive, (sameBut_pop s).trans (sameBut_setPc _ _)⟩
  case raises =>
    obtain ⟨t, ht, fatal⟩ := raise_next .stackUnderflow 0 s
    exact ⟨t, (execRet_of_empty empty).trans ht, fatal⟩

end Sys2Proof.Machine
end

section
/-! The opcode map in both directions (30_encoding.md). A row's word decodes to the row's instruction; and a word that
decodes has the fields its row fixes, so it is put together again from its own fields. -/

namespace Sys2Proof.Machine

/-! From instruction to word and back (R79 to R84). -/

theorem isWordOf_rnd (x : Nibble) (nn : Byte) : IsWordOf (0xC#4 ++ x ++ nn) (.rnd x nn) := by
  intro mode
  simp [decodeWord]

/-- Settles O1: each of the words is its row's word at the fields written out. -/
theorem specWordsDecode : Obligations.SpecWordsDecode :=
  ⟨isWordOf_cls, isWordOf_drw 0 1 5, isWordOf_ldByte 0xA 0x42, isWordOf_class8 (x := 1) (y := 2) (n := 5) rfl,
    isWordOf_class8 (x := 1) (y := 2) (n := 0xE) rfl, isWordOf_rnd 1 0x0F, isWordOf_ldI 0x2F0,
    isWordOf_classF (x := 2) (nn := 0x65) rfl, isWordOf_call 0x300, isWordOf_ret,
    fun mode => decodeWord_class5 mode 1 2 0, fun mode => decodeWord_class9 mode 1 2 0,
    isWordOf_classE (x := 1) (nn := 0x9E) rfl, isWordOf_classF (x := 5) (nn := 0x18) rfl⟩

/-- Settles O2: by the row of each instruction; only classes 5 and 9 need the instruction to be well formed. -/
theorem decodeOfEncodeIsIdentity : Obligations.DecodeOfEncodeIsIdentity := by
  intro mode i wf
  cases i with
  | cls => exact isWordOf_cls mode
  | ret => exact isWordOf_ret mode
  | jp nnn => exact isWordOf_jp nnn mode
  | call nnn => exact isWordOf_call nnn mode
  | seByte x nn => exact isWordOf_seByte x nn mode
  | sneByte x nn => exact isWordOf_sneByte x nn mode
  | seReg x y n => exact (decodeWord_class5 mode x y n).trans (if_pos wf)
  | ldByte x nn => exact isWordOf_ldByte x nn mode
  | addByte x nn => exact isWordOf_addByte x nn mode
  | ldReg x y | orReg x y | andReg x y | xorReg x y | addReg x y | sub x y | shr x y | subn x y | shl x y =>
    exact isWordOf_class8 (by simp [decodeClass8]) mode
  | sneReg x y n => exact (decodeWord_class9 mode x y n).trans (if_pos wf)
  | ldI nnn => exact isWordOf_ldI nnn mode
  | jpV0 nnn => exact isWordOf_jpV0 nnn mode
  | rnd x nn => exact isWordOf_rnd x nn mode
  | drw x y n => exact isWordOf_drw x y n mode
  | skp x | sknp x => exact isWordOf_classE (by simp [decodeClassE]) mode
  | ldVxDt x | ldVxK x | ldDtVx x | ldStVx x | addI x | ldF x | ldB x | storeRegs x | loadRegs x =>
    exact isWordOf_classF (by simp [decodeClassF]) mode

/-! A word from its own fields, for the formats whose class and low field a row fixes (R76). -/

theorem wordXB_fields {w : Word} {c : Nibble} {nn : Byte} (hc : (fieldC w).toNat = c.toNat)
    (hn : (fieldNN w).toNat = nn.toNat) : wordXB c (fieldX w) nn = w := by
  rw [← BitVec.eq_of_toNat_eq hc, ← BitVec.eq_of_toNat_eq hn]
  exact word_eq_xb w

theorem wordXYN_fields {w : Word} {c n : Nibble} (hc : (fieldC w).toNat = c.toNat)
    (hn : (fieldN w).toNat = n.toNat) : wordXYN c (fieldX w) (fieldY w) n = w := by
  rw [← BitVec.eq_of_toNat_eq hc, ← BitVec.eq_of_toNat_eq hn]
  exact word_eq_xyn w

theorem wordA_fields {w : Word} {c : Nibble} (hc : (fieldC w).toNat = c.toNat) : wordA c (fieldNNN w) = w := by
  rw [← BitVec.eq_of_toNat_eq hc]
  exact word_eq_a w

/-! What each second level accepts (R80 to R84). -/

section
variable {mode : Decode59} {w : Word} {i : Instr}

theorem encode_of_decodeClass0 (h : decodeClass0 w = .ok i) : encode i = w ∧ WellFormed mode i = true := by
  unfold decodeClass0 at h
  split at h
  case h_3 => cases h
  all_goals
    next hw =>
    cases h
    exact ⟨(BitVec.eq_of_toNat_eq hw).symm, rfl⟩

theorem encode_of_decodeClass8 (hc : (fieldC w).toNat = 8) (h : decodeClass8 w = .ok i) :
    encode i = w ∧ WellFormed mode i = true := by
  unfold decodeClass8 at h
  split at h
  case h_10 => cases h
  all_goals
    next hn =>
    cases h
    exact ⟨wordXYN_fields hc hn, rfl⟩

theorem encode_of_decodeClassE (hc : (fieldC w).toNat = 0xE) (h : decodeClassE w = .ok i) :
    encode i = w ∧ WellFormed mode i = true := by
  unfold decodeClassE at h
  split at h
  case h_3 => cases h
  all_goals
    next hn =>
    cases h
    exact ⟨wordXB_fields hc hn, rfl⟩

theorem encode_of_decodeClassF (hc : (fieldC w).toNat = 0xF) (h : decodeClassF w = .ok i) :
    encode i = w ∧ WellFormed mode i = true := by
  unfold decodeClassF at h
  split at h
  case h_10 => cases h
  all_goals
    next hn =>
    cases h
    exact ⟨wordXB_fields hc hn, rfl⟩

theorem decodeLowNibble_eq_ok {j : Instr} (h : decodeLowNibble mode w i = .ok j) :
    j = i ∧ lowNibbleOk mode (fieldN w) = true := by
  unfold decodeLowNibble at h
  split at h
  · next legal => cases h; exact ⟨rfl, legal⟩
  · cases h

end

/-- Settles O3: by the first level's row; a row with a second level by what that level accepts. -/
theorem encodeOfDecodeIsIdentity : Obligations.EncodeOfDecodeIsIdentity := by
  intro mode w i h
  unfold decodeWord at h
  split at h
  case h_1 => exact encode_of_decodeClass0 h
  case h_2 hc | h_3 hc | h_11 hc | h_12 hc => cases h; exact ⟨wordA_fields hc, rfl⟩
  case h_4 hc | h_5 hc | h_7 hc | h_8 hc | h_13 hc => cases h; exact ⟨wordXB_fields hc rfl, rfl⟩
  case h_6 hc | h_10 hc =>
    obtain ⟨rfl, legal⟩ := decodeLowNibble_eq_ok h
    exact ⟨wordXYN_fields hc rfl, legal⟩
  case h_9 hc => exact encode_of_decodeClass8 hc h
  case h_14 hc => cases h; exact ⟨wordXYN_fields hc rfl, rfl⟩
  case h_15 hc => exact encode_of_decodeClassE hc h
  case h_16 =>
    have hc : (fieldC w).toNat = 0xF := by grind [(fieldC w).isLt]
    exact encode_of_decodeClassF hc h

/-! What each second level rejects (R80 to R85). -/

section
variable {mode : Decode59} {w : Word}

theorem decodeClass0_error_iff : (∃ e, decodeClass0 w = .error e) ↔ w ≠ 0x00E0 ∧ w ≠ 0x00EE := by
  unfold decodeClass0
  split <;> simp_all [← BitVec.toNat_inj]

theorem decodeClass8_error_iff :
    (∃ e, decodeClass8 w = .error e) ↔ fieldN w ∈ [0x8, 0x9, 0xA, 0xB, 0xC, 0xD, 0xF] := by
  unfold decodeClass8
  split
  case h_10 =>
    have bound := (fieldN w).isLt
    simp_all [← BitVec.toNat_inj]
    omega
  all_goals simp_all [← BitVec.toNat_inj]

theorem decodeClassE_error_iff : (∃ e, decodeClassE w = .error e) ↔ fieldNN w ∉ [0x9E, 0xA1] := by
  unfold decodeClassE
  split <;> simp_all [← BitVec.toNat_inj]

theorem decodeClassF_error_iff : (∃ e, decodeClassF w = .error e) ↔
    fieldNN w ∉ [0x07, 0x0A, 0x15, 0x18, 0x1E, 0x29, 0x33, 0x55, 0x65] := by
  unfold decodeClassF
  split <;> simp_all [← BitVec.toNat_inj]

theorem lowNibbleOk_eq_false {n : Nibble} : lowNibbleOk mode n = false ↔ n ≠ 0 ∧ mode = .fault := by
  cases mode <;> simp [lowNibbleOk]

theorem decodeLowNibble_error_iff {i : Instr} :
    (∃ e, decodeLowNibble mode w i = .error e) ↔ fieldN w ≠ 0 ∧ mode = .fault := by
  rw [← lowNibbleOk_eq_false, decodeLowNibble]
  cases lowNibbleOk mode (fieldN w) <;> simp

end

/-- Settles O4: by the first level's row; a row with a second level rejects what that level rejects, and a row without one
rejects nothing. -/
theorem decoderRejectsExactlyIllegalWords : Obligations.DecoderRejectsExactlyIllegalWords := by
  intro mode w
  unfold decodeWord IllegalWord
  simp only [← BitVec.toNat_inj (x := fieldC w)]
  split
  case h_1 hc => simp [hc, decodeClass0_error_iff]
  case h_6 hc | h_10 hc => simp [hc, decodeLowNibble_error_iff]
  case h_9 hc => simp [hc, decodeClass8_error_iff]
  case h_15 hc => simp [hc, decodeClassE_error_iff]
  case h_16 =>
    have hc : (fieldC w).toNat = 0xF := by grind [(fieldC w).isLt]
    simp [hc, decodeClassF_error_iff]
  all_goals
    next hc => simp [hc]

end Sys2Proof.Machine
end

section
/-! What an instruction can leave (10_state.md, 20_memory.md). Each operation that can raise is inverted once: it raised, or
it left one state. The frames, the registers and the PC of every instruction follow by cases. -/

namespace Sys2Proof.Machine

/-! The operations that can raise, inverted (R243 to R248). -/

section
variable {s t : State} {x y n : Nibble}

theorem execCall_next {nnn : Addr} (h : execCall nnn s = .next t) :
    Raised s t ∨ s.sp.toNat < 16 ∧ t = (s.push s.pcNext).setPc (zextAddr nnn) := by
  unfold execCall at h
  split at h
  · next room => cases h; exact .inr ⟨room, rfl⟩
  · split at h
    · exact .inl (raised_of_raise (by decide) (by decide) h)
    · cases h

theorem execRet_next (h : execRet s = .next t) :
    Raised s t ∨ (1 ≤ s.sp.toNat ∧ s.sp.toNat ≤ 16) ∧ t = s.pop.setPc (s.stackSlot s.sp.toNat) := by
  unfold execRet at h
  split at h
  · exact .inl (raised_of_raise (by decide) (by decide) h)
  · next nonempty =>
    split at h
    · next depth => cases h; exact .inr ⟨⟨Nat.pos_of_ne_zero nonempty, depth⟩, rfl⟩
    · cases h

theorem skipOnKey_next {down : Bool} (h : skipOnKey down x s = .next t) :
    Raised s t ∨ t = s.skipIf (s.keyDown (s.reg x).toNat == down) := by
  unfold skipOnKey at h
  split at h
  · exact .inl (raised_of_raise (by decide) (by decide) h)
  · cases h; exact .inr rfl

theorem execLdF_next (h : execLdF x s = .next t) :
    Raised s t ∨ t = (s.setI (glyphAddress (s.reg x).toNat)).advance := by
  unfold execLdF at h
  split at h
  · exact .inl (raised_of_raise (by decide) (by decide) h)
  · cases h; exact .inr rfl

theorem drawAt_next {edge : SpriteEdge} (h : drawAt edge x y n s = .next t) :
    Raised s t ∨ t = s.afterDraw edge x y n := by
  unfold drawAt drawSprite at h
  split at h
  · exact .inl (raised_of_raise (by decide) (by decide) h)
  · split at h
    · cases h; exact .inr rfl
    · split at h
      · exact .inl (raised_of_raise (by decide) (by decide) h)
      · cases h; exact .inr rfl

end

/-! Frames (R24, R249). -/

theorem SameBut.mono {ps qs : List Part} {s t : State} (h : SameBut ps s t) (sub : ps ⊆ qs) : SameBut qs s t :=
  fun p hp => h p fun mem => hp (sub mem)

theorem Raised.sameBut {s t : State} (h : Raised s t) : SameBut fatalParts s t := by
  obtain ⟨c, info, -, -, rfl⟩ := h
  exact sameBut_takeFatal s c _ info

/-- An instruction that raises, or leaves all but `ps` alone, leaves all but `ps` and what a raise writes alone. -/
theorem sameBut_of_raised_or {ps : List Part} {s t : State} (h : Raised s t ∨ SameBut ps s t) :
    SameBut (ps ++ fatalParts) s t :=
  h.elim (fun raised => raised.sameBut.mono (List.subset_append_right _ _))
    (fun ran => ran.mono (List.subset_append_left _ _))

theorem sameBut_countDraw (s : State) : SameBut [.draws] s s.countDraw := by
  intro p hp
  have same := Part.same_refl p s
  cases p with
  | draws => simp at hp
  | _ => exact same

theorem sameBut_startWait (s : State) (x : Nibble) : SameBut [.waiting, .waitReg] s (s.startWait x) := by
  intro p hp
  have same := Part.same_refl p s
  cases p with
  | waiting | waitReg => simp at hp
  | _ => exact same

/-- Settles O24: the frame of each instruction from the frames of its writes, and from that of a raise where it can raise. -/
theorem instructionsWriteOnlyNamedParts : Obligations.InstructionsWriteOnlyNamedParts := by
  intro i s t h
  cases i with
  | cls => cases h; exact sameBut_setFb_setOutputs_advance s _ true true
  | jp | jpV0 | seByte | sneByte | seReg | sneReg => cases h; exact sameBut_setPc s _
  | ldByte | addByte | ldReg | orReg | andReg | xorReg | ldVxDt | addReg | sub | shr | subn | shl =>
    cases h
    exact sameBut_setRegs_advance s _
  | rnd =>
    cases h
    exact ((sameBut_countDraw s).trans (sameBut_setRegs_advance _ _)).mono (by simp [mayWrite])
  | ldI | addI => cases h; exact (sameBut_setI s _).trans (sameBut_advance _)
  | ldVxK => cases h; exact (sameBut_startWait s _).trans (sameBut_advance _)
  | ldDtVx => cases h; exact (sameBut_setTimers_dt s _).trans (sameBut_advance _)
  | ldStVx => cases h; exact (sameBut_setTimers_st s _).trans (sameBut_advance _)
  | ret =>
    refine sameBut_of_raised_or (ps := [.sp, .pc]) ((execRet_next h).imp_right ?_)
    rintro ⟨-, rfl⟩
    exact (sameBut_pop s).trans (sameBut_setPc _ _)
  | call =>
    refine sameBut_of_raised_or (ps := [.sp, .stack, .pc]) ((execCall_next h).imp_right ?_)
    rintro ⟨-, rfl⟩
    exact (sameBut_push s _).trans (sameBut_setPc _ _)
  | drw =>
    refine (sameBut_of_raised_or (ps := [.fb, .v, .pc, .redraw]) ((drawAt_next h).imp_right ?_)).mono
      (by simp [mayWrite, fatalParts])
    rintro rfl
    exact sameBut_drawn s _
  | skp | sknp =>
    refine sameBut_of_raised_or (ps := [.pc]) ((skipOnKey_next h).imp_right ?_)
    rintro rfl
    exact sameBut_setPc s _
  | ldF =>
    refine sameBut_of_raised_or (ps := [.i, .pc]) ((execLdF_next h).imp_right ?_)
    rintro rfl
    exact (sameBut_setI s _).trans (sameBut_advance _)
  | ldB =>
    refine sameBut_of_raised_or (ps := [.mem, .pc]) ((checked_next h).imp_right ?_)
    rintro ⟨-, rfl⟩
    exact (sameBut_setMem s _).trans (sameBut_advance _)
  | storeRegs =>
    refine sameBut_of_raised_or (ps := [.mem, .i, .pc]) ((checked_next h).imp_right ?_)
    rintro ⟨-, rfl⟩
    exact ((sameBut_setMem s _).trans (sameBut_advanceI _ _ _)).trans (sameBut_advance _)
  | loadRegs =>
    refine sameBut_of_raised_or (ps := [.v, .i, .pc]) ((checked_next h).imp_right ?_)
    rintro ⟨-, rfl⟩
    exact ((sameBut_setRegs s _).trans (sameBut_advanceI _ _ _)).trans (sameBut_advance _)

/-! General registers (R24, R37). -/

/-- Settles O25: by the writes of the instructions that write registers, and for the others by the frame of O24. -/
theorem instructionsWriteOnlyNamedRegisters : Obligations.InstructionsWriteOnlyNamedRegisters := by
  intro i s t k h free
  have raised (hr : Raised s t) : t.reg k = s.reg k := hr.sameBut .v (by decide) k
  cases i with
  | ldByte | addByte | ldReg | orReg | andReg | xorReg | ldVxDt =>
    cases h
    exact State.reg_setReg_ne s _ (by simpa [writesReg] using free)
  | rnd =>
    cases h
    exact State.reg_setReg_ne s.countDraw _ (by simpa [writesReg] using free)
  | addReg | sub | subn | shr | shl =>
    cases h
    obtain ⟨notDest, notFlag⟩ : k ≠ _ ∧ k ≠ 15#4 := by simpa [writesReg] using free
    exact (State.reg_setFlag_ne _ _ notFlag).trans (State.reg_setReg_ne s _ notDest)
  | drw =>
    refine (drawAt_next h).elim raised ?_
    rintro rfl
    exact State.reg_drawn_ne s _ (by simpa [writesReg] using free)
  | loadRegs x =>
    refine (checked_next h).elim raised ?_
    rintro ⟨-, rfl⟩
    have above : x.toNat < k.toNat := by simpa [writesReg] using free
    rw [State.reg_advance, State.reg_advanceI, State.reg_setRegs_loadBlock, if_neg (by omega)]
  | _ => exact instructionsWriteOnlyNamedParts _ s t h .v (by simp [mayWrite, fatalParts]) k

/-! The program counter and the stacked addresses (R26, R27). -/

/-- Where an instruction run from `s` can leave `PC`. -/
inductive PcAfter (s : State) : Word → Prop
  /-- It raised. -/
  | raised : PcAfter s s.pc
  /-- The default advance (R75). -/
  | next : PcAfter s (s.pc + 2)
  /-- A skip that was taken (R209). -/
  | skip : PcAfter s (s.pc + 4)
  /-- A jump or a call (R201, R203). -/
  | jump (nnn : Addr) : PcAfter s (zextAddr nnn)
  /-- A jump with an offset (R204). -/
  | offset (nnn : Addr) (b : Byte) : PcAfter s (zextAddr nnn + zextByte b)
  /-- A return (R202). -/
  | returned (positive : 1 ≤ s.sp.toNat) (depth : s.sp.toNat ≤ 16) : PcAfter s (s.stackSlot s.sp.toNat)

theorem pcAfter_skipIf (s : State) (c : Bool) : PcAfter s (s.skipIf c).pc := by
  rw [State.pc_skipIf]
  cases c with
  | true => exact .skip
  | false => exact .next

theorem pcAfter_of_raised_or {s t : State} {Q : Prop} (h : Raised s t ∨ Q) (ran : Q → PcAfter s t.pc) :
    PcAfter s t.pc := by
  refine h.elim ?_ ran
  rintro ⟨c, info, -, -, rfl⟩
  exact .raised

theorem exec_pcAfter {i : Instr} {s t : State} (h : exec i s = .next t) : PcAfter s t.pc := by
  cases i with
  | jp nnn => cases h; exact .jump nnn
  | jpV0 nnn => cases h; exact .offset nnn _
  | seByte | sneByte | seReg | sneReg => cases h; exact pcAfter_skipIf s _
  | call nnn =>
    refine pcAfter_of_raised_or (execCall_next h) ?_
    rintro ⟨-, rfl⟩
    exact .jump nnn
  | ret =>
    refine pcAfter_of_raised_or (execRet_next h) ?_
    rintro ⟨⟨positive, depth⟩, rfl⟩
    exact .returned positive depth
  | drw =>
    refine pcAfter_of_raised_or (drawAt_next h) ?_
    rintro rfl
    exact .next
  | skp | sknp =>
    refine pcAfter_of_raised_or (skipOnKey_next h) ?_
    rintro rfl
    exact pcAfter_skipIf s _
  | ldF =>
    refine pcAfter_of_raised_or (execLdF_next h) ?_
    rintro rfl
    exact .next
  | ldB =>
    refine pcAfter_of_raised_or (checked_next h) ?_
    rintro ⟨-, rfl⟩
    exact .next
  | storeRegs | loadRegs =>
    refine pcAfter_of_raised_or (checked_next h) ?_
    rintro ⟨-, rfl⟩
    rw [State.advance_pc, State.advanceI_pc]
    exact .next
  | _ => cases h; exact .next

/-- No stacked return address passes 0x1000, the second half of `PcBounded`. -/
def StackBounded (s : State) : Prop := ∀ k, 1 ≤ k → k ≤ 16 → (s.stackSlot k).toNat ≤ 0x1000

/-- From an address that can be fetched from, an advance or a skip does not wrap. -/
theorem toNat_pc_add {s : State} (fetched : s.pc.toNat + 1 ≤ 0xFFF) {d : Word} (small : d.toNat ≤ 4) :
    (s.pc + d).toNat = s.pc.toNat + d.toNat := by
  rw [BitVec.toNat_add]
  exact Nat.mod_eq_of_lt (by omega)

/-- The largest of these addresses is that of a jump with an offset, 0xFFF + 0xFF. -/
theorem PcAfter.bounded {s : State} {w : Word} (h : PcAfter s w) (fetched : s.pc.toNat + 1 ≤ 0xFFF)
    (stack : StackBounded s) : w.toNat ≤ 0x10FE := by
  cases h with
  | raised => omega
  | next => rw [toNat_pc_add fetched (by decide)]; change s.pc.toNat + 2 ≤ _; omega
  | skip => rw [toNat_pc_add fetched (by decide)]; change s.pc.toNat + 4 ≤ _; omega
  | jump nnn => rw [toNat_zextAddr]; omega
  | offset nnn b => rw [toNat_zextAddr_add_zextByte]; omega
  | returned positive depth => exact (stack _ positive depth).trans (by decide)

theorem StackBounded.of_sameBut {ps : List Part} {s t : State} (stack : StackBounded s) (frame : SameBut ps s t)
    (kept : .stack ∉ ps) : StackBounded t := by
  intro k positive depth
  rw [frame .stack kept k positive depth]
  exact stack k positive depth

theorem StackBounded.push {s : State} (stack : StackBounded s) {w : Word} (room : s.sp.toNat < 16)
    (bound : w.toNat ≤ 0x1000) : StackBounded (s.push w) := by
  intro k positive depth
  by_cases top : k = s.sp.toNat + 1
  · rw [top, State.stackSlot_push_top s w room]
    exact bound
  · rw [State.stackSlot_push_ne s w positive top]
    exact stack k positive depth

theorem exec_stackBounded {i : Instr} {s t : State} (h : exec i s = .next t) (fetched : s.pc.toNat + 1 ≤ 0xFFF)
    (stack : StackBounded s) : StackBounded t := by
  cases i with
  | call nnn =>
    obtain raised | ⟨room, rfl⟩ := execCall_next h
    · exact stack.of_sameBut raised.sameBut (by decide)
    · have bound : (s.pc + 2).toNat ≤ 0x1000 := by
        rw [toNat_pc_add fetched (by decide)]; change s.pc.toNat + 2 ≤ _; omega
      exact stack.push room bound
  | _ => exact stack.of_sameBut (instructionsWriteOnlyNamedParts _ s t h) (by simp [mayWrite, fatalParts])

theorem exec_pcBounded {i : Instr} {s t : State} (h : exec i s = .next t) (fetched : s.pc.toNat + 1 ≤ 0xFFF)
    (inv : PcBounded s) : PcBounded t :=
  ⟨(exec_pcAfter h).bounded fetched inv.2, exec_stackBounded h fetched inv.2⟩

/-! Every instruction answers a next state (R36). -/

theorem checked_answers (n : Nat) (s t : State) : ∃ u, checked n s t = .next u := by
  by_cases inMem : BlockInMemory s n
  · exact ⟨t, checked_of_blockInMemory inMem t⟩
  · obtain ⟨u, hu, -⟩ := checked_of_not_blockInMemory inMem t
    exact ⟨u, hu⟩

theorem drawAt_answers (edge : SpriteEdge) (x y n : Nibble) (s : State) : ∃ t, drawAt edge x y n s = .next t := by
  unfold drawAt drawSprite
  split
  · exact ⟨_, rfl⟩
  · split
    · exact ⟨_, rfl⟩
    · split
      · exact ⟨_, rfl⟩
      · exact ⟨_, rfl⟩

theorem skipOnKey_answers (down : Bool) (x : Nibble) (s : State) : ∃ t, skipOnKey down x s = .next t := by
  unfold skipOnKey
  split
  · exact ⟨_, rfl⟩
  · exact ⟨_, rfl⟩

theorem execLdF_answers (x : Nibble) (s : State) : ∃ t, execLdF x s = .next t := by
  unfold execLdF
  split
  · exact ⟨_, rfl⟩
  · exact ⟨_, rfl⟩

/-- Settles O10: a call and a return by the depth, the others that can raise by either of their outcomes. -/
theorem everyInstructionAnswersNext : Obligations.EveryInstructionAnswersNext := by
  intro i s depth
  cases i with
  | call nnn =>
    obtain room | full := Nat.lt_or_eq_of_le depth
    · exact ⟨_, execCall_of_lt room⟩
    · exact ⟨_, execCall_of_full full⟩
  | ret =>
    obtain empty | positive := Nat.eq_zero_or_pos s.sp.toNat
    · exact ⟨_, execRet_of_empty empty⟩
    · exact ⟨_, execRet_of_pos positive depth⟩
  | drw x y n => exact drawAt_answers spriteEdge x y n s
  | skp x => exact skipOnKey_answers true x s
  | sknp x => exact skipOnKey_answers false x s
  | ldF x => exact execLdF_answers x s
  | ldB | storeRegs | loadRegs => exact checked_answers _ s _
  | _ => exact ⟨_, rfl⟩

end Sys2Proof.Machine
end

section
/-! The remaining results of single instructions, and of two in a row: RND, DRW off screen, the key wait, Fx55 then Fx65, and
a call then a return. -/

namespace Sys2Proof.Machine

/-- Settles O35: the write of the masked draw to `V[x]`, from the state in which the draw is counted. -/
theorem randomResult : Obligations.RandomResult := by
  intro x nn s
  obtain ⟨t, ht, w⟩ := writeReg_next x (Config.draw s.draws &&& nn) s.countDraw
  have counted : t.draws = s.draws + 1 := w.frame .draws (by decide)
  exact ⟨isWordOf_rnd x nn, t, ht, fun b => by rw [w.dest, BitVec.getLsbD_and], w.others, counted, w.pc,
    ((sameBut_countDraw s).trans w.frame).mono (by decide)⟩

theorem drawAt_of_offScreen {s : State} {x y n : Nibble} {r c : Nat} (inMem : BlockInMemory s n.toNat)
    (off : OffScreen s x y n r c) (first : ∀ r' c', OffScreen s x y n r' c' → r < r' ∨ (r = r' ∧ c ≤ c')) :
    drawAt .fault x y n s =
      raise .spriteOutOfBounds (((s.reg y).toNat + r) * 256 + ((s.reg x).toNat + c)) s := by
  rw [drawAt, firstOutOfRange_eq_none_iff_blockInMemory.2 inMem]
  simp only [drawSprite, firstOffending_drawBits_eq_some off first, if_true]

/-- Settles O39: the first off-screen set bit is the one found first, and `drawAt` raises for it. -/
theorem spriteOffScreenHalts : Obligations.SpriteOffScreenHalts := by
  refine ⟨rfl, fun x y n s r c inMem off first => ?_⟩
  obtain ⟨t, ht, fatal⟩ := raise_next .spriteOutOfBounds (((s.reg y).toNat + r) * 256 + ((s.reg x).toNat + c)) s
  have raised : drawAt .fault x y n s = .next t := (drawAt_of_offScreen inMem off first).trans ht
  exact ⟨t, raised, fun edge => by rw [exec, execDrw, edge, raised], fatal⟩

/-- Settles O56: the start of the wait, then the advance. -/
theorem keyWaitResult : Obligations.KeyWaitResult := fun x s =>
  ⟨isWordOf_classF (by simp [decodeClassF]), _, rfl, rfl, rfl, rfl, (sameBut_startWait s x).trans (sameBut_advance _)⟩

/-- Settles O48: a store that did not halt had its block in memory, and the load reads at the addresses it stored to. -/
theorem loadAfterStoreRestoresRegisters : Obligations.LoadAfterStoreRestoresRegisters := by
  intro x s t u wf ht running index bytes
  obtain ⟨-, stores, raises⟩ := storeRegistersResult x s
  have inMem : BlockInMemory s (x.toNat + 1) := by
    by_contra out
    obtain ⟨t', ht', halted, -⟩ := raises out
    obtain rfl : t = t' := Host.Outcome.next.inj (ht.symm.trans ht')
    exact Bool.false_ne_true (running.symm.trans halted)
  obtain ⟨t', ht', stored, -⟩ := stores wf inMem
  obtain rfl : t = t' := Host.Outcome.next.inj (ht.symm.trans ht')
  have inMem' : BlockInMemory u (x.toNat + 1) := by rwa [BlockInMemory, index]
  obtain ⟨-, loads, -⟩ := loadRegistersResult x u
  obtain ⟨w, hw, filled, -⟩ := loads inMem'
  refine ⟨w, hw, fun k hk => ?_⟩
  calc w.reg k = u.byteAt (u.effAddr k.toNat) := filled k hk
    _ = t.byteAt (s.effAddr k.toNat) := by rw [State.effAddr, index, bytes, State.effAddr]
    _ = s.reg k := stored k hk

/-- Settles O53: the return pops the slot the call pushed to. -/
theorem returnAfterCallComesBack : Obligations.ReturnAfterCallComesBack := by
  intro nnn s t u room ht depth stack
  obtain rfl : (s.push s.pcNext).setPc (zextAddr nnn) = t :=
    Host.Outcome.next.inj ((execCall_of_lt room).symm.trans ht)
  have sp : u.sp.toNat = s.sp.toNat + 1 := by rw [depth]; exact State.toNat_sp_push s.pcNext room
  refine ⟨_, execRet_of_pos (by omega) (by omega), ?pc, ?sp⟩
  case pc =>
    rw [State.setPc_pc, sp, stack _ (by omega) (by omega)]
    exact State.stackSlot_push_top s s.pcNext room
  case sp =>
    rw [State.setPc_sp, State.pop_sp, depth]
    exact BitVec.add_sub_cancel s.sp 1

end Sys2Proof.Machine
end

section
/-! Steps by their event: the cycle (30_encoding.md), the host's other events (60_exceptions.md, 70_reset_and_hazards.md) and
what the host reads. A state that runs takes its next event; one that does not stops by name. -/

namespace Sys2Proof.Machine

/-- The state the host's cycle event hands to the cycle: its `KEYS` supplied, the events after it still to come. -/
def State.onCycle (s : State) (keys : BitVec 16) (rest : List HostEvent) : State := (s.setPending rest).setKeys keys

/-! The step of each event. -/

section
variable {s : State} (booted : s.phase ≠ .beforeReset) (running : s.halted = false)
include booted running

theorem step_of_cycle {keys : BitVec 16} {rest : List HostEvent} (first : s.pending = .cycle keys :: rest) :
    step s = cycle (s.onCycle keys rest) :=
  (step_of_cons first).trans (whenRunning_of_running booted running _)

theorem step_of_load {bytes : List Byte} {rest : List HostEvent} (first : s.pending = .load bytes :: rest) :
    step s = loadProgram bytes (s.setPending rest) :=
  (step_of_cons first).trans (whenRunning_of_running booted running _)

theorem step_of_tick {rest : List HostEvent} (first : s.pending = .tick :: rest) :
    step s = .next (s.setPending rest).ticked :=
  (step_of_cons first).trans (whenRunning_of_running booted running _)

theorem step_of_keyPress {k : Nibble} {rest : List HostEvent} (first : s.pending = .keyPress k :: rest) :
    step s = .next ((s.setPending rest).keyPressed k) :=
  (step_of_cons first).trans (whenRunning_of_running booted running _)

/-- A step whose event is a cycle, pending or not, is the cycle from the state that event hands over. -/
theorem step_of_cycleFrom {u : State} (h : CycleFrom s u) :
    ∃ keys rest, u = (s.onCycle keys rest).beginCycle ∧ step s = cycle (s.onCycle keys rest) := by
  obtain ⟨none, rfl⟩ | ⟨keys, rest, first, rfl⟩ := h
  · exact ⟨s.keys, s.pending, rfl, (step_of_nil none).trans (whenRunning_of_running booted running _)⟩
  · exact ⟨keys, rest, rfl, step_of_cycle booted running first⟩

theorem step_of_nextIsCycle (h : NextIsCycle s) : ∃ keys rest, step s = cycle (s.onCycle keys rest) := by
  have start : ∃ u, CycleFrom s u := by
    obtain none | ⟨keys, rest, first⟩ := h
    · exact ⟨_, .inl ⟨none, rfl⟩⟩
    · exact ⟨_, .inr ⟨keys, rest, first, rfl⟩⟩
  obtain ⟨u, hu⟩ := start
  obtain ⟨keys, rest, -, hs⟩ := step_of_cycleFrom booted running hu
  exact ⟨keys, rest, hs⟩

end

/-! Cycles (R74, R241, R242, R279). -/

theorem fatal_takeFatal (c : Cause) (w info : Word) (s : State) : Fatal c w info s (s.takeFatal c w info) :=
  ⟨rfl, rfl, rfl, rfl, sameBut_takeFatal s c w info⟩

theorem cycle_of_waiting {s : State} (h : s.waiting = true) : cycle s = .fault .keyWait := if_pos h

theorem cycle_answers {s : State} (awake : s.waiting = false) (depth : s.sp.toNat ≤ 16) : ∃ t, cycle s = .next t := by
  by_cases fetched : s.pc.toNat + 1 ≤ 0xFFF
  · cases decoded : decodeWord decodeMode s.fetchedWord with
    | ok i =>
      obtain ⟨t, ht⟩ := everyInstructionAnswersNext i s.beginCycle depth
      rw [cycle_of_decode awake fetched decoded, ht]
      exact ⟨_, rfl⟩
    | error e => exact ⟨_, cycle_of_error awake fetched decoded⟩
  · exact ⟨_, cycle_of_fetch_none awake (Nat.not_le.1 fetched)⟩

/-- Settles O5: the cycle of a word that decodes, whatever its instruction answers. -/
theorem stepRunsDecodedInstruction : Obligations.StepRunsDecodedInstruction := by
  intro s i booted running awake fetched decoded
  refine ⟨toNat_wordOfBytes _ _, fun u start => ?_⟩
  obtain ⟨keys, rest, rfl, hs⟩ := step_of_cycleFrom booted running start
  rw [hs, cycle_of_decode (s := s.onCycle keys rest) awake fetched decoded]
  cases exec i (s.onCycle keys rest).beginCycle with
  | next t => rfl
  | fault f => rfl
  | refused r => rfl

/-- Settles O6: the cycle of a fetch beyond memory. -/
theorem fetchBeyondMemoryHalts : Obligations.FetchBeyondMemoryHalts := by
  refine ⟨rfl, fun s u booted running awake beyond start => ?_⟩
  obtain ⟨keys, rest, rfl, hs⟩ := step_of_cycleFrom booted running start
  exact ⟨_, hs.trans (cycle_of_fetch_none (s := s.onCycle keys rest) awake beyond), fatal_takeFatal ..⟩

/-- Settles O7: the cycle of a word the decoder rejects, which by O4 every illegal word is. -/
theorem illegalWordHalts : Obligations.IllegalWordHalts := by
  refine ⟨rfl, fun s u booted running awake fetched illegal start => ?_⟩
  obtain ⟨e, rejected⟩ := (decoderRejectsExactlyIllegalWords _ _).2 illegal
  obtain ⟨keys, rest, rfl, hs⟩ := step_of_cycleFrom booted running start
  exact ⟨_, hs.trans (cycle_of_error (s := s.onCycle keys rest) awake fetched rejected), fatal_takeFatal ..⟩

/-- Settles O9: a cycle raises or runs its instruction, which by O10 answers. -/
theorem runningCycleAnswersNext : Obligations.RunningCycleAnswersNext := by
  intro s booted running awake depth isCycle
  obtain ⟨keys, rest, hs⟩ := step_of_nextIsCycle booted running isCycle
  rw [hs]
  exact cycle_answers (s := s.onCycle keys rest) awake depth

/-- Settles O12: the cycle's own check. -/
theorem cycleWhileWaitingHasNoStep : Obligations.CycleWhileWaitingHasNoStep := by
  intro s booted running waiting isCycle
  obtain ⟨keys, rest, hs⟩ := step_of_nextIsCycle booted running isCycle
  exact hs.trans (cycle_of_waiting (s := s.onCycle keys rest) waiting)

/-! States that do not run (R252, R274). -/

theorem whenRunning_of_halted {s : State} (booted : s.phase ≠ .beforeReset) (halted : s.halted = true) (r : Result) :
    whenRunning s r = .fault .halted := (if_neg booted).trans (if_pos halted)

theorem whenRunning_of_beforeReset {s : State} (h : s.phase = .beforeReset) (r : Result) :
    whenRunning s r = .fault .notReset := if_pos h

/-- Every event but reset first asks whether the state runs. -/
theorem step_of_nextIsNotReset {s : State} (h : NextIsNotReset s) :
    ∃ rest r, step s = whenRunning (s.setPending rest) r := by
  cases queue : s.pending with
  | nil => exact ⟨s.pending, _, step_of_nil queue⟩
  | cons e rest =>
    rw [step_of_cons queue]
    cases e with
    | reset => simp [NextIsNotReset, queue] at h
    | _ => exact ⟨rest, _, rfl⟩

/-- Settles O11: what a halted state answers to that question. -/
theorem haltedAcceptsOnlyReset : Obligations.HaltedAcceptsOnlyReset := by
  intro s booted halted notReset
  obtain ⟨rest, r, hs⟩ := step_of_nextIsNotReset notReset
  exact hs.trans (whenRunning_of_halted (s := s.setPending rest) booted halted r)

/-- Settles O13: what a state before its first reset answers to that question. -/
theorem onlyResetBeforeFirstReset : Obligations.OnlyResetBeforeFirstReset := by
  intro s unbooted notReset
  obtain ⟨rest, r, hs⟩ := step_of_nextIsNotReset notReset
  exact hs.trans (whenRunning_of_beforeReset (s := s.setPending rest) unbooted r)

/-! Frames of the events (R256, R260, R262, R270). -/

theorem sameBut_setPending (s : State) (es : List HostEvent) : SameBut [.pending] s (s.setPending es) := by
  intro p hp
  have same := Part.same_refl p s
  cases p with
  | pending => simp at hp
  | _ => exact same

theorem sameBut_setTimers (s : State) (dt st : Byte) : SameBut [.dt, .st] s (s.setTimers dt st) := by
  intro p hp
  have same := Part.same_refl p s
  cases p with
  | dt | st => simp at hp
  | _ => exact same

theorem sameBut_setReg (s : State) (x : Nibble) (b : Byte) : SameBut [.v] s (s.setReg x b) := sameBut_setRegs s _

theorem sameBut_endWait (s : State) : SameBut [.waiting, .waitOut] s s.endWait := by
  intro p hp
  have same := Part.same_refl p s
  cases p with
  | waiting | waitOut => simp at hp
  | _ => exact same

theorem sameBut_closeLoad (s : State) : SameBut [.phase] s s.closeLoad := by
  intro p hp
  have same := Part.same_refl p s
  cases p with
  | phase => simp at hp
  | _ => exact same

theorem sameBut_loaded (s : State) (bytes : List Byte) : SameBut [.mem, .phase] s (s.loaded bytes) :=
  (sameBut_setMem s _).trans (sameBut_closeLoad _)

theorem sameBut_hostReset (s : State) : SameBut [.keys, .draws, .pending] State.reset s.hostReset := by
  intro p hp
  have same := Part.same_refl p State.reset
  cases p with
  | keys | draws | pending => simp at hp
  | _ => exact same

theorem State.keyPressed_of_waiting {s : State} (h : s.waiting = true) (k : Nibble) :
    s.keyPressed k = (s.setReg s.waitReg (k.setWidth 8)).endWait := if_pos h

theorem State.keyPressed_of_awake {s : State} (h : s.waiting = false) (k : Nibble) : s.keyPressed k = s :=
  if_neg (by simp [h])

/-! Ticks, key presses, loads and resets. -/

/-- A timer's tick as a number, where subtraction stops at 0. -/
theorem toNat_tick (b : Byte) : (if b = 0 then 0 else b - 1).toNat = b.toNat - 1 := by
  split
  · next zero => rw [zero]; rfl
  · next nonzero =>
    have positive : 1 ≤ b.toNat := Nat.pos_of_ne_zero fun h => nonzero (BitVec.eq_of_toNat_eq h)
    exact BitVec.toNat_sub_of_le positive

/-- Settles O14: the write of both ticked timers. -/
theorem tickDecrementsTimers : Obligations.TickDecrementsTimers := by
  intro s rest booted running first
  exact ⟨_, step_of_tick booted running first, toNat_tick s.dt, toNat_tick s.st, rfl,
    ((sameBut_setPending s rest).trans (sameBut_setTimers _ _ _)).mono (by decide)⟩

/-- Settles O15: the register write and the end of the wait, or no change with no wait to end. -/
theorem keyPressEndsWait : Obligations.KeyPressEndsWait := by
  intro s k rest booted running first
  have hs := step_of_keyPress booted running first
  cases waiting : s.waiting with
  | true =>
    rw [State.keyPressed_of_waiting (s := s.setPending rest) waiting] at hs
    have key : (((s.setPending rest).setReg s.waitReg (k.setWidth 8)).reg s.waitReg).toNat = k.toNat := by
      rw [State.reg_setReg_self]
      exact BitVec.toNat_setWidth_of_le (by decide)
    have frame : SameBut [.v, .waiting, .waitOut, .pending] s
        ((s.setPending rest).setReg s.waitReg (k.setWidth 8)).endWait :=
      (((sameBut_setPending s rest).trans (sameBut_setReg _ _ _)).trans (sameBut_endWait _)).mono (by decide)
    exact ⟨_, hs, rfl,
      fun _ => ⟨key, fun r other => State.reg_setReg_ne (s.setPending rest) _ other, rfl, rfl, frame⟩, nofun⟩
  | false =>
    rw [State.keyPressed_of_awake (s := s.setPending rest) waiting] at hs
    exact ⟨_, hs, rfl, nofun, fun _ => sameBut_setPending s rest⟩

/-- Settles O16: the program is written as one block that lies in memory. -/
theorem loadCopiesProgram : Obligations.LoadCopiesProgram := by
  intro s bytes rest opened running wf first short
  have booted : s.phase ≠ .beforeReset := by rw [opened]; decide
  have fits : 0x200 + bytes.length ≤ 0x1000 := by omega
  have accepted : loadProgram bytes (s.setPending rest) = .next ((s.setPending rest).loaded bytes) :=
    if_pos ⟨opened, short⟩
  exact ⟨_, (step_of_load booted running first).trans accepted,
    fun k hk => Memory.read_writeBytes_inside wf bytes fits hk,
    fun a outside => Memory.read_writeBytes_outside s.mem bytes outside, rfl, rfl,
    ((sameBut_setPending s rest).trans (sameBut_loaded _ bytes)).mono (by decide)⟩

/-- Settles O17: either premise fails one half of the load's check. -/
theorem lateOrLongLoadHasNoStep : Obligations.LateOrLongLoadHasNoStep := by
  intro s bytes rest booted running first lateOrLong
  refine (step_of_load booted running first).trans (if_neg ?_)
  rintro ⟨opened, short⟩
  obtain late | long := lateOrLong
  · exact absurd (late.symm.trans opened) (by decide)
  · exact absurd short (Nat.not_le.2 long)

/-- Settles O18: a reset asks nothing of the state. -/
theorem resetEventRestoresEverything : Obligations.ResetEventRestoresEverything := fun s rest first =>
  ⟨_, step_of_cons first, sameBut_hostReset (s.setPending rest), rfl, rfl, rfl, rfl⟩

theorem State.endCycle_of_halted {s : State} (h : s.halted = true) : s.endCycle = s := if_pos h

theorem State.endCycle_of_running {s : State} (h : s.halted = false) : s.endCycle = s.showWait := if_neg (by simp [h])

/-- Settles O57: the cycle leaves the state of O56 with the wait shown, and the key press ends that wait as O15 says. -/
theorem keyWaitThenPress : Obligations.KeyWaitThenPress := by
  intro x k s booted running awake fetched word queue
  obtain ⟨isWord, t, ht, waiting, dest, pc, frame⟩ := keyWaitResult x (s.onCycle s.keys [.keyPress k]).beginCycle
  have running' : t.halted = false := (frame .halted (by decide)).trans running
  have decoded : decodeWord decodeMode s.fetchedWord = .ok (.ldVxK x) := word ▸ isWord decodeMode
  have cycled : step s = .next t.showWait :=
    calc step s = cycle (s.onCycle s.keys [.keyPress k]) := step_of_cycle booted running queue
      _ = finishCycle (exec (.ldVxK x) (s.onCycle s.keys [.keyPress k]).beginCycle) :=
        cycle_of_decode awake fetched decoded
      _ = .next t.endCycle := by rw [ht, finishCycle]
      _ = .next t.showWait := by rw [State.endCycle_of_running running']
  have booted' : t.showWait.phase ≠ .beforeReset := by
    rw [State.showWait_phase, frame .phase (by decide), State.beginCycle_phase]
    decide
  obtain ⟨u, hu, taken, ends, -⟩ := keyPressEndsWait t.showWait k [] booted' running' (frame .pending (by decide))
  obtain ⟨key, others, resolved, shown, frame'⟩ := ends waiting
  rw [State.showWait_waitReg, dest] at key others
  exact ⟨_, u, cycled, waiting, waiting, pc, hu, key, fun r other => (others r other).trans (frame .v (by decide) r),
    resolved, shown, (frame' .pc (by decide)).trans pc, taken⟩

/-! What the host reads (R261, R265). -/

/-- Settles O59: the frame by its elements, the rest as the view is defined. -/
theorem hostViewIsRowMajor : Obligations.HostViewIsRowMajor := fun s =>
  have bit (k : Nat) (h : k < 2048) : s.hostView.frame[k] = 0 ∨ s.hostView.frame[k] = 1 := by
    rw [show s.hostView.frame[k] = _ from State.getElem_frameBytes s k h]
    split
    · exact .inr rfl
    · exact .inl rfl
  ⟨fun _ _ hx hy => State.frameBytes_pixel s hx hy, bit, rfl, rfl, rfl, decide_eq_true_iff, rfl, rfl⟩

end Sys2Proof.Machine
end

section
/-! What every step keeps (10_state.md, 60_exceptions.md, 70_reset_and_hazards.md). A step that answers a next state is one of
six cases; each invariant holds of the state after reset and is kept in each case. -/

namespace Sys2Proof.Machine

/-! The cases of a step. -/

/-- What a step from `s` that answers a next state leaves. -/
inductive StepCase (s : State) : State → Prop
  /-- A reset (R270). -/
  | reset (rest : List HostEvent) : StepCase s (s.setPending rest).hostReset
  /-- A cycle that took a fatal condition (R241 to R249). -/
  | raised {keys : BitVec 16} {rest : List HostEvent} {c : Cause} {word info : Word} (awake : s.waiting = false)
      (cause : c ≠ .none) (fetch : c = .fetchOutOfRange → word = 0)
      (other : c ≠ .fetchOutOfRange → word = s.fetchedWord) :
      StepCase s ((s.onCycle keys rest).beginCycle.takeFatal c word info)
  /-- A cycle whose instruction ran (R74). -/
  | ran {keys : BitVec 16} {rest : List HostEvent} {i : Instr} {u : State} (running : s.halted = false)
      (fetched : s.pc.toNat + 1 ≤ 0xFFF) (run : exec i (s.onCycle keys rest).beginCycle = .next u)
      (kept : Ran (s.onCycle keys rest).beginCycle u) : StepCase s u.showWait
  /-- A load (R262). -/
  | load {bytes : List Byte} (rest : List HostEvent) (short : bytes.length ≤ 3584) :
      StepCase s ((s.setPending rest).loaded bytes)
  /-- A tick (R256). -/
  | tick (rest : List HostEvent) : StepCase s (s.setPending rest).ticked
  /-- A key press (R260). -/
  | keyPress (k : Nibble) (rest : List HostEvent) : StepCase s ((s.setPending rest).keyPressed k)

theorem stepCase_of_cycle {s t : State} {keys : BitVec 16} {rest : List HostEvent} (running : s.halted = false)
    (h : cycle (s.onCycle keys rest) = .next t) : StepCase s t := by
  obtain ⟨awake, ⟨-, rfl⟩ | ⟨-, rfl⟩ | ⟨fetched, i, u, -, run, rfl⟩⟩ := cycle_next h
  · exact .raised awake (by decide) (fun _ => rfl) (fun ne => absurd rfl ne)
  · exact .raised awake (by decide) nofun (fun _ => rfl)
  · obtain ⟨c, info, cause, notFetch, rfl⟩ | kept := exec_next run
    · rw [State.endCycle_of_halted rfl]
      exact .raised awake cause (fun eq => absurd eq notFetch) (fun _ => rfl)
    · rw [State.endCycle_of_running (kept.halted.trans running)]
      exact .ran running fetched run kept

theorem stepCase_of_next {s t : State} (h : step s = .next t) : StepCase s t := by
  obtain ⟨rest, -, rfl⟩ | ⟨-, running, event⟩ := step_next h
  · exact .reset rest
  · obtain ⟨-, run⟩ | ⟨keys, rest, -, run⟩ | ⟨bytes, rest, -, -, short, rfl⟩ | ⟨rest, -, rfl⟩ | ⟨k, rest, -, rfl⟩ :=
      event
    · exact stepCase_of_cycle (keys := s.keys) (rest := s.pending) running run
    · exact stepCase_of_cycle running run
    · exact .load rest short
    · exact .tick rest
    · exact .keyPress k rest

/-! A step that halts (R249). -/

/-- What a cycle changes before its instruction runs (R74). -/
theorem sameBut_onCycle_beginCycle (s : State) (keys : BitVec 16) (rest : List HostEvent) :
    SameBut [.redraw, .clear, .keys, .phase, .pending] s (s.onCycle keys rest).beginCycle := by
  intro p hp
  have same := Part.same_refl p s
  cases p with
  | redraw | clear | keys | phase | pending => simp at hp
  | _ => exact same

/-- A key press writes at most a register and the wait (R260). -/
theorem sameBut_keyPressed (s : State) (k : Nibble) : SameBut [.v, .waiting, .waitOut] s (s.keyPressed k) := by
  unfold State.keyPressed
  split
  · exact (sameBut_setReg s _ _).trans (sameBut_endWait _)
  · exact fun p _ => Part.same_refl p s

/-- Settles O8: a step halts a running state only by a fatal condition; every other case leaves it running. -/
theorem fatalConditionsArePrecise : Obligations.FatalConditionsArePrecise := by
  intro s t running h halted
  have clash {b : Bool} (off : b = false) (on : b = true) : False := Bool.false_ne_true (off.symm.trans on)
  cases stepCase_of_next h with
  | raised _ cause fetch other =>
    exact ⟨rfl, rfl, cause, rfl, fetch, other,
      ((sameBut_onCycle_beginCycle s _ _).trans (sameBut_takeFatal _ _ _ _)).mono (by decide)⟩
  | reset => exact (clash rfl halted).elim
  | ran _ _ _ kept => exact (clash (kept.halted.trans running) halted).elim
  | load | tick => exact (clash running halted).elim
  | keyPress k rest =>
    have kept := sameBut_keyPressed (s.setPending rest) k .halted (by decide)
    exact (clash (kept.trans running) halted).elim

/-! The three invariants (R26, R28, R34, R35, R274). -/

theorem machineInv_reset : MachineInv State.reset :=
  ⟨rfl, by decide, rfl, by decide, by decide, by decide⟩

theorem pcBounded_reset : PcBounded State.reset :=
  ⟨by decide, fun k _ _ => by rw [State.stackSlot_reset]; decide⟩

/-- Settles O20: reset's own fields, its empty stack, and that it agrees with itself. -/
theorem resetMeetsInvariants : Obligations.ResetMeetsInvariants :=
  ⟨machineInv_reset, pcBounded_reset, fun _ p _ => Part.same_refl p State.reset⟩

/-- Settles O21: a cycle that ran keeps what `Ran` names and shows its wait; the other cases change few of these fields. -/
theorem stepKeepsMachineInvariant : Obligations.StepKeepsMachineInvariant := by
  intro s t inv h
  have ⟨wf, depth, shown, halt, quiet, clean⟩ := inv
  cases stepCase_of_next h with
  | reset => exact machineInv_reset
  | raised awake cause =>
    exact ⟨wf, depth, shown, iff_of_true rfl cause, fun _ => ⟨awake, rfl, rfl⟩, fun none => absurd none cause⟩
  | @ran _ _ _ u running _ _ kept =>
    have halted : u.halted = s.halted := kept.halted
    have fault : u.fault = s.fault := kept.fault
    have quiet' (on : u.halted = true) : u.waiting = false ∧ u.redraw = false ∧ u.clear = false :=
      absurd ((halted.trans running).symm.trans on) Bool.false_ne_true
    rw [← halted, ← fault] at halt
    rw [← fault] at clean
    exact ⟨kept.wf wf, kept.sp depth, rfl, halt, quiet', clean⟩
  | @load bytes rest short =>
    have fits : 0x200 + bytes.length ≤ 0x1000 := by omega
    exact ⟨Memory.wf_writeBytes wf bytes fits, depth, shown, halt, quiet, clean⟩
  | tick => exact inv
  | keyPress k rest =>
    unfold State.keyPressed
    split
    · exact ⟨wf, depth, rfl, halt, fun on => ⟨rfl, (quiet on).2⟩, clean⟩
    · exact inv

/-- Settles O22: a cycle that ran had fetched below 0xFFF, and its instruction keeps the bounds; no other case but reset
writes `PC` or the stack. -/
theorem stepKeepsPcBounded : Obligations.StepKeepsPcBounded := by
  intro s t inv h
  cases stepCase_of_next h with
  | reset => exact pcBounded_reset
  | @ran _ _ _ u _ fetched run =>
    have kept : PcBounded u := exec_pcBounded run fetched inv
    exact kept
  | raised | load | tick => exact inv
  | keyPress k rest =>
    unfold State.keyPressed
    split
    · exact inv
    · exact inv

theorem State.ticked_of_stopped {s : State} (dt : s.dt = 0) (st : s.st = 0) : s.ticked = s := by
  have same : s.ticked = s.setTimers s.dt s.st := by rw [State.ticked, if_pos dt, if_pos st, dt, st]
  exact same

/-- Settles O23: a load and a cycle close loading; until then the timers are 0 and no wait is on, so ticks and key presses
change nothing but the queue. -/
theorem stepKeepsUntouchedUntilBoot : Obligations.StepKeepsUntouchedUntilBoot := by
  intro s t inv h opened
  have untouched (opened : s.phase = .loadOpen) (rest : List HostEvent) :
      SameBut [.keys, .draws, .pending] State.reset (s.setPending rest) :=
    ((inv opened).trans (sameBut_setPending s rest)).mono (by decide)
  cases stepCase_of_next h with
  | reset rest => exact sameBut_hostReset (s.setPending rest)
  | raised | load => cases opened
  | ran _ _ _ kept => cases kept.phase.symm.trans opened
  | tick rest =>
    have same := untouched opened rest
    rwa [State.ticked_of_stopped (same .dt (by decide)) (same .st (by decide))]
  | keyPress k rest =>
    have same := untouched ((sameBut_keyPressed (s.setPending rest) k .phase (by decide)).symm.trans opened) rest
    rwa [State.keyPressed_of_awake (same .waiting (by decide))]

end Sys2Proof.Machine
end
